-- ==== Sys2Proof/Config.lean ====
section
/-! DEFINITION. What an implementation fixes: the parameters of R6 and R74 with the spec's defaults, the parameters the
spec leaves open, and the three free values of the model. -/

namespace Sys2Proof.Config

/-- The widths of R6, each a field with the default the spec states. Word.lean makes the types of a wire symbol, of PLEN and
of ADDR from them. -/
structure Widths where
  /-- R6 `BYTE`, in bits. -/
  byteBits : Nat := 8
  /-- R6 `PLEN_W`, the width of PLEN. -/
  plenW : Nat := 17
  /-- R6 `ADDR_W`, the width of ADDR. -/
  addrW : Nat := 32
  deriving DecidableEq, Repr

/-- The widths of this block. -/
abbrev widths : Widths := {}

/-- The other parameters of R6 and the wire constants of R74, each a field with the default the spec states.

UNVERIFIED (log 14, unsafe): the spec's own literals are unaudited (91_not_in_source.md). -/
structure Params where
  /-- R6, R74 `ACK`. -/
  ack : BitVec widths.byteBits := 0x79
  /-- R6, R74 `NACK`. -/
  nack : BitVec widths.byteBits := 0x1F
  /-- R6, R74 `INIT`. -/
  initByte : BitVec widths.byteBits := 0x7F
  /-- R6 `BLOCK`: the longest response payload and the longest raw read. -/
  block : Nat := 256
  /-- R6 `HS_ATTEMPTS`. -/
  hsAttempts : Nat := 5
  /-- R6 `HS_WINDOW`. -/
  hsWindow : Nat := 1024
  /-- R6 `HS_TMO_MS`. -/
  hsTmoMs : BitVec 32 := 1000
  /-- R6 `TOL_READS`. -/
  tolReads : Nat := 8
  /-- R6 `TMO_RESET_MS`. -/
  tmoResetMs : BitVec 32 := 2000
  /-- R6 `P_MAX`, the cells of PBUF. -/
  pMax : Nat := 131070
  /-- R6 `RBUF_SIZE`, the cells of RBUF. -/
  rbufSize : Nat := 256
  /-- R74 `GET`. -/
  get : BitVec widths.byteBits := 0x00
  /-- R74 `GET_ID`. -/
  getId : BitVec widths.byteBits := 0x02
  /-- R74 `READ`. -/
  read : BitVec widths.byteBits := 0x11
  /-- R74 `GO`. -/
  go : BitVec widths.byteBits := 0x21
  /-- R74 `WRITE`. -/
  write : BitVec widths.byteBits := 0x31
  /-- R74 `ERASE`, carried as a constant only (R5). -/
  erase : BitVec widths.byteBits := 0x43
  /-- R74 `ERASE_EXTENDED`. -/
  eraseExtended : BitVec widths.byteBits := 0x44
  /-- R80: mass erase. -/
  sentinelMass : BitVec 16 := 0xFFFF
  /-- R80: bank-1 erase. -/
  sentinelBank1 : BitVec 16 := 0xFFFE
  /-- R80: bank-2 erase. -/
  sentinelBank2 : BitVec 16 := 0xFFFD
  deriving DecidableEq, Repr

/-- The block this model is of: every parameter at its stated default. -/
def params : Params := {}

/-- R55: the platform's base address of the register block, left OPEN. Accesses are named by their offset from it, so
no rule computes with it (log 13). -/
opaque base : Nat

/-- D21: the serial line's character format, left OPEN and used by no rule (log 13). -/
opaque lineFormat : Nat

/-- The bus address of an offset (R50 `BASE+off`). -/
def busAddress (off : Nat) : Nat := base + off

/-- A FREE VALUE (R28; log 3): the answer of the oracle named `peer` to a question for `k` bytes under timeout `t`, when
the bytes in `tx` have been sent and the answers in `rx` have been given. Nothing constrains it; `State.answer` keeps
its first `k` bytes. -/
opaque peerAnswer (peer : Nat) (tx : List (BitVec widths.byteBits)) (rx : List (List (BitVec widths.byteBits))) (k : Nat) (t : BitVec 32) : List (BitVec widths.byteBits)

/-- A FREE VALUE (R240; log 4): the bits a HOST read returns, while an operation runs, for the fields that are "not
meaningful then". It is the `n`-th read of the run and reads offset `off`. -/
opaque busyRead (peer n off : Nat) : BitVec 32

/-- A FREE VALUE (R202; log 5): the byte the real block returns for an unwritten cell. It is read by the `n`-th access that
meets unwritten cells, at offset `off`. -/
opaque unwrittenByte (n off : Nat) : BitVec widths.byteBits

end Sys2Proof.Config
end

