-- ==== Sys2Proof/Word.lean ====
section
/-! DEFINITION. The widths the FRAMER computes with, and what an operation is requested by: one OPREQ word, or one of
the wire patterns of the opcode table. -/

namespace Sys2Proof

/-- A wire symbol, a buffer cell (R6 `BYTE`, R8). -/
abbrev Byte := BitVec Config.widths.byteBits

/-- A 16-bit operand or serialized value (R70 `IMM16`, R124). -/
abbrev Half := BitVec 16

/-- What PLEN holds (R6 `PLEN_W`, R30). -/
abbrev Length := BitVec Config.widths.plenW

/-- What ADDR holds (R6 `ADDR_W`, R29). -/
abbrev Address := BitVec Config.widths.addrW

/-- A register as the HOST's bus sees it (R22), and an OPREQ word (R70). -/
abbrev Word := BitVec 32

/-- What asks the FRAMER for an operation.

DESIGN CHOICE (log 8, unsafe): `frame` is the model's own; it stands for the rows of the opcode table that are byte
patterns on a wire and no OPREQ words (formats CMDFRAME, CTLBYTE and SENTINEL). No HOST action makes one (R215). -/
inductive Request where
  /-- The word of an OPREQ write (R70). Its three fields are the latched operation of R39. -/
  | opreq (w : Word)
  /-- A wire pattern, its first transmitted byte first (R10, R75, R78, R80, R84). -/
  | frame (bytes : List Byte)
  deriving DecidableEq, Repr

end Sys2Proof
end

