-- ==== Sys2Proof/Machine/Operands.lean ====
section
/-! DEFINITION. The operand forms and the byte-level functions every family shares: the fields of an OPREQ word (R70,
R71), the big-endian serializers (R124), the XOR fold and the one's complement (R100, R101), and the frames built from
them (R75, R76, R77, R80). -/

namespace Sys2Proof.Machine

/-- R70: `OPREQ[7:0]`. -/
def opcOf (w : Word) : Byte := w.extractLsb' 0 8

/-- R70, R71: `OPREQ[15:8]`. -/
def imm8Of (w : Word) : Byte := w.extractLsb' 8 8

/-- R70, R71: `OPREQ[31:16]`. -/
def imm16Of (w : Word) : Half := w.extractLsb' 16 16

/-- R70, R85: the word with these three fields. -/
def requestWord (imm16 : Half) (imm8 opc : Byte) : Word := imm16 ++ imm8 ++ opc

/-- R124 `BE16`: the most significant byte first. -/
def be16 (v : Half) : List Byte := [v.extractLsb' 8 8, v.extractLsb' 0 8]

/-- R124 `BE32`: the most significant byte first. -/
def be32 (a : Address) : List Byte :=
  [a.extractLsb' 24 8, a.extractLsb' 16 8, a.extractLsb' 8 8, a.extractLsb' 0 8]

/-- R101: the one's complement of a byte. -/
def cpl (b : Byte) : Byte := 0xFF ^^^ b

/-- R100: the iterative XOR fold, from 0x00. -/
def xorfold (s : List Byte) : Byte := s.foldl (fun x b => x ^^^ b) 0x00

/-- R75: a command byte and its complement. -/
def commandFrame (c : Byte) : List Byte := [c, cpl c]

/-- R76: a payload and its XOR trailer. With a big-endian payload it is the address frame (R77) and the sentinel frame
(R80). -/
def dataBlock (p : List Byte) : List Byte := p ++ [xorfold p]

end Sys2Proof.Machine
end

