-- ==== Sys2Proof/Syntax.lean ====
section
/-! DEFINITION. One constructor per row of spec/opcode_table.json. -/

namespace Sys2Proof

/-- The rows of the opcode table. The first seventeen are operations (R72), with the operand fields they use (R71); the
others are wire patterns (R75, R78, R80, R84), which carry no operand. -/
inductive Instr where
  /-- R112. -/
  | nop
  /-- R102. -/
  | ckxor
  /-- R103. -/
  | compl (imm8 : Byte)
  /-- R121. -/
  | clrbuf
  /-- R122. -/
  | put8 (imm8 : Byte)
  /-- R123. -/
  | put16be (imm16 : Half)
  /-- R125. -/
  | put32be
  /-- R110. -/
  | sendcmd (imm8 : Byte)
  /-- R111. -/
  | sendbyte (imm8 : Byte)
  /-- R127. -/
  | sendblk
  /-- R129. -/
  | sendframe
  /-- R131. -/
  | sendaddr
  /-- R151. -/
  | waitack
  /-- R152. -/
  | waitacktol
  /-- R153. -/
  | handshake
  /-- R170. -/
  | readresp
  /-- R172. -/
  | readraw (imm16 : Half)
  /-- R75: the command frame of GET. -/
  | cmdGet
  /-- R75: the command frame of GET_ID. -/
  | cmdGetId
  /-- R75: the command frame of READ. -/
  | cmdRead
  /-- R75: the command frame of GO. -/
  | cmdGo
  /-- R75: the command frame of WRITE. -/
  | cmdWrite
  /-- R75: the command frame of ERASE. -/
  | cmdErase
  /-- R75: the command frame of ERASE_EXTENDED. -/
  | cmdEraseExtended
  /-- R74, R84: the handshake byte. -/
  | init
  /-- R78: the positive acknowledgment byte. -/
  | ack
  /-- R78: the negative acknowledgment byte. -/
  | nack
  /-- R80: the mass-erase sentinel frame. -/
  | sentinelMass
  /-- R80: the bank-1 sentinel frame. -/
  | sentinelBank1
  /-- R80: the bank-2 sentinel frame. -/
  | sentinelBank2
  deriving DecidableEq, Repr

end Sys2Proof
end

