-- ==== Sys2Proof/WellFormed.lean ====
section
/-! DEFINITION. Which encodings are well formed. An instruction's operands are exact bit fields, so every term of Instr is
one the encoding admits; what can be ill formed is what is handed to the FRAMER: an OPREQ word with an unassigned
operation code or with an unused field that is not zero (R71, R73), a command frame whose second byte is not the
complement of the first (R75), a sentinel frame that is none of the three, or whose trailer is not their XOR (R80), a
control byte that is none of the three (R74). -/

namespace Sys2Proof.WellFormed

open Sys2Proof.Machine

/-- R72: which operation codes are assigned. -/
def opcAssigned (opc : Byte) : Bool :=
  [0x00, 0x01, 0x02, 0x08, 0x09, 0x0A, 0x0B, 0x10, 0x11, 0x18, 0x19, 0x1A, 0x20, 0x21, 0x22, 0x30, 0x31].contains opc

/-- R72: which operations have an IMM8 operand. -/
def usesImm8 (opc : Byte) : Bool := [0x02, 0x09, 0x10, 0x11].contains opc

/-- R72: which operations have an IMM16 operand. -/
def usesImm16 (opc : Byte) : Bool := [0x0A, 0x31].contains opc

/-- R71: an assigned code, and zero in every field the operation does not use ("software should write them as 0"). -/
def opreqWord (w : Word) : Bool :=
  opcAssigned (opcOf w) && (usesImm8 (opcOf w) || imm8Of w == 0) && (usesImm16 (opcOf w) || imm16Of w == 0)

/-- R75: two bytes, the second the complement of the first, the first a command of R74. -/
def cmdFrame (bytes : List Byte) : Bool :=
  match bytes with
  | [c, k] => k == cpl c && [0x00, 0x02, 0x11, 0x21, 0x31, 0x43, 0x44].contains c
  | _ => false

/-- R74: one byte, INIT, ACK or NACK. -/
def ctlByte (bytes : List Byte) : Bool :=
  match bytes with
  | [b] => [0x7F, 0x79, 0x1F].contains b
  | _ => false

/-- R80: a reserved sentinel, big-endian, and the XOR of its two bytes. -/
def sentinelFrame (bytes : List Byte) : Bool :=
  match bytes with
  | [h, l, x] => x == h ^^^ l && h == 0xFF && [0xFF, 0xFE, 0xFD].contains l
  | _ => false

/-- A well-formed request: a well-formed OPREQ word, or one of the table's wire patterns. -/
def request (r : Request) : Bool :=
  match r with
  | .opreq w => opreqWord w
  | .frame bytes => cmdFrame bytes || ctlByte bytes || sentinelFrame bytes

end Sys2Proof.WellFormed
end

