-- ==== Sys2Proof/Decode.lean ====
section
/-! DEFINITION. The decoder, total on every request and rejecting by name (R72, R73, R75, R78, R80, R84), the encoder
written from the same tables, and the opcode table's own numbering of an instruction's bits. -/

namespace Sys2Proof

open Sys2Proof.Machine

/-- Why the decoder gives no instruction. -/
inductive Reject where
  /-- R73: an operation code that R72 does not list. The FRAMER answers it with ILLEGAL. -/
  | unassignedOpc (opc : Byte)
  /-- A byte sequence that is none of the opcode table's wire patterns. No operation of the FRAMER is asked for. -/
  | unknownFrame (bytes : List Byte)
  deriving DecidableEq, Repr

/-- R72: the OPC map, a row each, with the operand fields its operation uses. -/
def opcodeRows (imm8 : Byte) (imm16 : Half) : List (Byte × Instr) :=
  [(0x00, .nop), (0x01, .ckxor), (0x02, .compl imm8),
    (0x08, .clrbuf), (0x09, .put8 imm8), (0x0A, .put16be imm16), (0x0B, .put32be),
    (0x10, .sendcmd imm8), (0x11, .sendbyte imm8),
    (0x18, .sendblk), (0x19, .sendframe), (0x1A, .sendaddr),
    (0x20, .waitack), (0x21, .waitacktol), (0x22, .handshake),
    (0x30, .readresp), (0x31, .readraw imm16)]

/-- R72: the operation of an OPREQ word, selected by `OPREQ & 0x000000FF == OPC` alone. -/
def decodeOpreq (w : Word) : Except Reject Instr :=
  match (opcodeRows (imm8Of w) (imm16Of w)).lookup (opcOf w) with
  | some i => .ok i
  | none => .error (.unassignedOpc (opcOf w))

/-- R74, R75, R78, R80: the wire patterns, in transmission order. -/
def frameRows : List (List Byte × Instr) :=
  [(commandFrame Config.params.get, .cmdGet), (commandFrame Config.params.getId, .cmdGetId),
    (commandFrame Config.params.read, .cmdRead), (commandFrame Config.params.go, .cmdGo),
    (commandFrame Config.params.write, .cmdWrite), (commandFrame Config.params.erase, .cmdErase),
    (commandFrame Config.params.eraseExtended, .cmdEraseExtended),
    ([Config.params.initByte], .init), ([Config.params.ack], .ack), ([Config.params.nack], .nack),
    (dataBlock (be16 Config.params.sentinelMass), .sentinelMass),
    (dataBlock (be16 Config.params.sentinelBank1), .sentinelBank1),
    (dataBlock (be16 Config.params.sentinelBank2), .sentinelBank2)]

/-- R74, R75, R78, R80: the row of a wire pattern. -/
def decodeFrame (bytes : List Byte) : Except Reject Instr :=
  match frameRows.lookup bytes with
  | some i => .ok i
  | none => .error (.unknownFrame bytes)

/-- The decoder. -/
def decode (r : Request) : Except Reject Instr :=
  match r with
  | .opreq w => decodeOpreq w
  | .frame bytes => decodeFrame bytes

/-- R72, R85: the request of an instruction, with zero in every field it does not use (R71). -/
def encode (i : Instr) : Request :=
  match i with
  | .nop => .opreq (requestWord 0 0 0x00)
  | .ckxor => .opreq (requestWord 0 0 0x01)
  | .compl imm8 => .opreq (requestWord 0 imm8 0x02)
  | .clrbuf => .opreq (requestWord 0 0 0x08)
  | .put8 imm8 => .opreq (requestWord 0 imm8 0x09)
  | .put16be imm16 => .opreq (requestWord imm16 0 0x0A)
  | .put32be => .opreq (requestWord 0 0 0x0B)
  | .sendcmd imm8 => .opreq (requestWord 0 imm8 0x10)
  | .sendbyte imm8 => .opreq (requestWord 0 imm8 0x11)
  | .sendblk => .opreq (requestWord 0 0 0x18)
  | .sendframe => .opreq (requestWord 0 0 0x19)
  | .sendaddr => .opreq (requestWord 0 0 0x1A)
  | .waitack => .opreq (requestWord 0 0 0x20)
  | .waitacktol => .opreq (requestWord 0 0 0x21)
  | .handshake => .opreq (requestWord 0 0 0x22)
  | .readresp => .opreq (requestWord 0 0 0x30)
  | .readraw imm16 => .opreq (requestWord imm16 0 0x31)
  | .cmdGet => .frame (commandFrame Config.params.get)
  | .cmdGetId => .frame (commandFrame Config.params.getId)
  | .cmdRead => .frame (commandFrame Config.params.read)
  | .cmdGo => .frame (commandFrame Config.params.go)
  | .cmdWrite => .frame (commandFrame Config.params.write)
  | .cmdErase => .frame (commandFrame Config.params.erase)
  | .cmdEraseExtended => .frame (commandFrame Config.params.eraseExtended)
  | .init => .frame [Config.params.initByte]
  | .ack => .frame [Config.params.ack]
  | .nack => .frame [Config.params.nack]
  | .sentinelMass => .frame (dataBlock (be16 Config.params.sentinelMass))
  | .sentinelBank1 => .frame (dataBlock (be16 Config.params.sentinelBank1))
  | .sentinelBank2 => .frame (dataBlock (be16 Config.params.sentinelBank2))

/-- The OPREQ word of an operation, as a HOST writes it (R85); 0 for a wire pattern, which is none. -/
def encodeOpreq (i : Instr) : Word :=
  match encode i with
  | .opreq w => w
  | .frame _ => 0

/-- The OPREQ word whose operation has this wire pattern on the wire, which the OPREQ register holds while it runs: SENDCMD
with the pattern's command byte, HANDSHAKE, WAITACK, or SENDFRAME.

DESIGN CHOICE (log 9, unsafe): the spec has no register value for a pattern that is no OPREQ word. -/
def carrierWord (r : Request) : Word :=
  match r with
  | .opreq w => w
  | .frame [b] => if b = Config.params.initByte then encodeOpreq .handshake else encodeOpreq .waitack
  | .frame [c, _] => encodeOpreq (.sendcmd c)
  | .frame _ => encodeOpreq .sendframe

/-- `n` bytes of a number, the most significant first: the transmission order of a wire pattern in the opcode table ("the
first transmitted byte is the most significant byte of the pattern"). -/
def wireBytes : Nat → Nat → List Byte
  | 0, _ => []
  | n + 1, w => BitVec.ofNat 8 (w / 256 ^ n) :: wireBytes n w

/-- The request of an instruction whose bits, as the opcode table numbers them, are `w`: a 16-bit or 24-bit row is a wire
pattern, an 8-bit one is a control byte where it is one of the three, and everything else is an OPREQ word with zeros
above the bits given (log 15). -/
def tableRequest (nbits w : Nat) : Request :=
  if nbits = 16 then .frame (wireBytes 2 w)
  else if nbits = 24 then .frame (wireBytes 3 w)
  else if nbits = 8 ∧ WellFormed.ctlByte (wireBytes 1 w) = true then .frame (wireBytes 1 w)
  else .opreq (BitVec.ofNat 32 w)

/-- The instruction the decoder reads from the bits of a row of the opcode table. -/
def decodeTableWord (nbits w : Nat) : Option Instr :=
  match decode (tableRequest nbits w) with
  | .ok i => some i
  | .error _ => none

end Sys2Proof
end

