-- ==== Sys2Proof/Machine/State.lean ====
section
/-! DEFINITION. The state of the FRAMER as plain data, the reasons a step can stop, and the state after reset (R40). -/

namespace Sys2Proof.Machine

/-- The register space's buffer cells that hold a byte, each by its offset from BASE (R50): RBUF[i] at 0x100 + i (R36)
and PBUF[i] at 0x20000 + i (R35), offsets strictly rising. An offset not listed is an unwritten cell and holds no
value. -/
abbrev Memory := List Host.Cell

/-- R21, R39: the phase, and while BUSY the latched operation, taken from the request at issue. -/
inductive Phase where
  /-- Waiting for an operation (R232). -/
  | idle
  /-- An operation has been issued and has not finished. -/
  | busy (op : Request)
  deriving DecidableEq, Repr

/-- R25: the results an operation can have; the codes 8..15 are never produced. -/
inductive Res where
  /-- The operation completed. -/
  | ok
  /-- The acknowledgment byte was 0x1F. -/
  | nack
  /-- The acknowledgment byte was neither ACK nor NACK. -/
  | unexpected
  /-- No expected byte within bound. -/
  | timeout
  /-- Five handshake windows, none ending in ACK. -/
  | hsfail
  /-- READRAW received fewer bytes than asked. -/
  | short
  /-- A length or buffer bound was broken. -/
  | elen
  /-- The operation code is not assigned. -/
  | illegal
  deriving DecidableEq, Repr

/-- R28, R50 item 3: one RxRead and its answer. -/
structure RxRead where
  /-- How many bytes were asked for, k. -/
  asked : Nat
  /-- The per-read timeout, t (R34, R154). -/
  timeout : Word
  /-- How many bytes TXLOG held when the question was put (R58). -/
  after : Nat
  /-- The bytes the PEER delivered, at most k. -/
  answer : List Byte
  deriving DecidableEq, Repr

/-- What the outside world does next: the HOST's accesses by offset and width (R50, R53), the line items of R85, and the
platform's reset input (R230).

DESIGN CHOICE (log 2, safe): the outside world is a list in State; which entry comes when is universally quantified. -/
inductive Input where
  /-- A HOST write of `v` to the offset, `bits` wide; an 8-bit write stores the low byte. -/
  | write (off bits : Nat) (v : Word)
  /-- A HOST read of the offset, `bits` wide. -/
  | read (off bits : Nat)
  /-- The HOST polls STATUS until BUSY = 0 (R85, R240): a running operation finishes before the next entry. -/
  | wait
  /-- R85 `expect RES=name`: waits like `wait`, then aborts the program unless the last result is this one. -/
  | expect (r : Res)
  /-- The platform asserts reset (R230, R231). -/
  | reset
  deriving DecidableEq, Repr

/-- The machine. The last five fields are the outside world, its record and a counter, the model's own (log 10). -/
structure State where
  /-- PHASE, the latched operation (R21, R39), and STATUS.BUSY (R24). -/
  phase : Phase
  /-- OPREQ (R23). -/
  opreq : Word
  /-- STATUS.WERR (R24, R41). -/
  werr : Bool
  /-- STATUS.RES (R24, R25). -/
  res : Res
  /-- STATUS.RAW (R24). -/
  raw : Byte
  /-- STATUS.ATO (R24, R152). -/
  ato : BitVec 4
  /-- STATUS.ATT (R24, R153). -/
  att : BitVec 4
  /-- ADDR (R29). -/
  addr : Address
  /-- PLEN (R30). -/
  plen : Length
  /-- CKSUM (R31). -/
  cksum : Byte
  /-- CMPL (R32). -/
  cmpl : Byte
  /-- RINFO.RL (R33). -/
  rl : Byte
  /-- RINFO.RCOUNT (R33). -/
  rcount : BitVec 9
  /-- TMO (R34). -/
  tmo : Word
  /-- PBUF and RBUF (R35, R36). -/
  mem : Memory
  /-- The fault mark of R202 and R248: a cell that nothing has written has been read. -/
  faultMark : Bool
  /-- TXLOG (R27). -/
  txlog : List Byte
  /-- The answers received so far, oldest first (R28, R50 item 3). -/
  rxlog : List RxRead
  /-- The PEER's coming answers as far as they are written down, one per RxRead; past its end the answer is a free value. -/
  rxnext : List (List Byte)
  /-- Which oracle answers, an argument of the free values; no statement rests on it. -/
  peer : Nat
  /-- What the HOST and the platform do next, in order (R57). -/
  inputs : List Input
  /-- What the HOST's reads returned, by offset, oldest first. -/
  readlog : List (Nat × Word)
  /-- How many accesses have read unwritten cells, an argument of the free value; no statement rests on it. -/
  unwrittenReads : Nat
  deriving DecidableEq, Repr

/-- Why the machine stops with a fault. A model fault (R202) is no stop: it is `State.faultMark`, and the run goes on. -/
inductive Fault where
  /-- R52, R53: a HOST access of an offset and width that is not admitted; the HOST is stuck. Raised by a HOST read or
  write. Safe (log 6). -/
  | notAdmitted (off bits : Nat)
  deriving DecidableEq, Repr

/-- Why the machine gives no meaning. -/
inductive Refusal where
  /-- Raised by `exec` for an instruction whose meaning is not written. Safe. -/
  | notModelled (mnemonic : String)
  /-- Raised by the step when the latched request is a byte sequence that is none of the opcode table's wire patterns: no
  operation of the spec is named by it, and no HOST action latches it. Safe (log 8). -/
  | unknownFrame (bytes : List Byte)
  deriving DecidableEq, Repr

/-- The outcome of a step of this machine. -/
abbrev Result := Host.Outcome State Fault Refusal

/-- R40, R230: the machine right after reset.

DESIGN CHOICE (log 10, unsafe): the last five fields are the model's own, empty or zero. -/
def State.reset : State where
  phase := .idle
  opreq := 0x00000000
  werr := false
  res := .ok
  raw := 0x00
  ato := 0
  att := 0
  addr := 0x00000000
  plen := 0
  cksum := 0x00
  cmpl := 0x00
  rl := 0
  rcount := 0
  tmo := Config.params.tmoResetMs
  mem := []
  faultMark := false
  txlog := []
  rxlog := []
  rxnext := []
  peer := 0
  inputs := []
  readlog := []
  unwrittenReads := 0

end Sys2Proof.Machine
end

