-- ==== Sys2Proof/Machine/Flags.lean ====
section
/-! DEFINITION. The flags (R38): how STATUS and RINFO read as words (R24, R33), the result codes (R25), and the
classification of an acknowledgment byte (R78, R150). -/

namespace Sys2Proof.Machine

/-- R25: the code of a result. -/
def Res.code (r : Res) : BitVec 4 :=
  match r with
  | .ok => 0
  | .nack => 1
  | .unexpected => 2
  | .timeout => 3
  | .hsfail => 4
  | .short => 5
  | .elen => 6
  | .illegal => 7

/-- R24: BUSY, which is PHASE read as a bit. -/
def State.isBusy (s : State) : Bool :=
  match s.phase with
  | .idle => false
  | .busy _ => true

/-- R24: STATUS put together from its fields, ATT, ATO, RAW, RES, WERR and BUSY from the top; the reserved bits read 0. -/
def statusBits (att ato : BitVec 4) (raw : Byte) (res : Res) (werr busy : Bool) : Word :=
  (0 : BitVec 8) ++ att ++ ato ++ raw ++ res.code ++ (0 : BitVec 2) ++ BitVec.ofBool werr ++ BitVec.ofBool busy

/-- R24: STATUS as a HOST read returns it. -/
def State.statusWord (s : State) : Word := statusBits s.att s.ato s.raw s.res s.werr s.isBusy

/-- R33: RINFO put together from RCOUNT and RL; the reserved bits read 0. -/
def rinfoBits (rcount : BitVec 9) (rl : Byte) : Word := (0 : BitVec 15) ++ rcount ++ rl

/-- R150: the result an acknowledgment byte stands for. -/
def ackResult (b : Byte) : Res :=
  if b = Config.params.ack then .ok else if b = Config.params.nack then .nack else .unexpected

end Sys2Proof.Machine
end

