-- ==== Sys2Proof/Machine/Ops.lean ====
section
/-! DEFINITION. The named operations over the buffers, the wire streams and the registers: the primitives of R9, the issue
of an operation (R70), its result (R200, the block's only exception mechanism; nothing returns from it, R205), and
AckDetect (R150). -/

namespace Sys2Proof.Machine

/-! ### The buffers -/

/-- R36: the offset of RBUF[i]. -/
def rbufOff (i : Nat) : Nat := 0x100 + i

/-- R35: the offset of PBUF[i]. -/
def pbufOff (i : Nat) : Nat := 0x20000 + i

/-- The byte of a cell; none when the cell is unwritten (R35, R36). -/
def Memory.read (m : Memory) (a : Nat) : Option Byte :=
  match m with
  | [] => none
  | c :: rest => if a = c.1 then some c.2 else if a < c.1 then none else Memory.read rest a

/-- The cells after a byte is written at an offset, offsets strictly rising still. -/
def Memory.write (m : Memory) (a : Nat) (b : Byte) : Memory :=
  match m with
  | [] => [(a, b)]
  | c :: rest =>
    if a = c.1 then (a, b) :: rest else if a < c.1 then (a, b) :: c :: rest else c :: Memory.write rest a b

/-- Consecutive cells written in rising order from an offset. -/
def Memory.writeList (m : Memory) (a : Nat) (bs : List Byte) : Memory :=
  match bs with
  | [] => m
  | b :: rest => Memory.writeList (Memory.write m a b) (a + 1) rest

/-- Whether one of `n` consecutive cells from an offset is unwritten (R35, R36). -/
def Memory.unwritten (m : Memory) (a n : Nat) : Bool := (List.range n).any (fun i => (Memory.read m (a + i)).isNone)

/-- R202: the byte a read of a cell gives: the one written, and for an unwritten cell a free value.

DEDUCED (log 5, safe): "the real block would return some byte there", and the run goes on with a fault mark. -/
def State.cell (s : State) (off : Nat) : Byte :=
  match Memory.read s.mem off with
  | some b => b
  | none => Config.unwrittenByte s.unwrittenReads off

/-- What a read of `n` consecutive cells from an offset gives, in rising order. -/
def State.cells (s : State) (a n : Nat) : List Byte := (List.range n).map (fun i => s.cell (a + i))

/-- R202: the run after an access, with the fault mark when the access met an unwritten cell. No step clears the mark. -/
def State.mark (s : State) (unwritten : Bool) : State :=
  { s with
    faultMark := s.faultMark || unwritten
    unwrittenReads := s.unwrittenReads + unwritten.toNat }

/-- Every offset listed is at least `lo`, and they rise strictly. -/
def Memory.risingFrom (lo : Nat) (m : Memory) : Bool :=
  match m with
  | [] => true
  | c :: rest => decide (lo ≤ c.1) && Memory.risingFrom (c.1 + 1) rest

/-- The canonical form: offsets strictly rising, so no cell is listed twice. -/
def Memory.wf (m : Memory) : Bool := Memory.risingFrom 0 m

/-- R22, R35, R36: the offsets of the buffers' cells. -/
def isCell (a : Nat) : Bool :=
  (decide (rbufOff 0 ≤ a) && decide (a < rbufOff Config.params.rbufSize)) ||
    (decide (pbufOff 0 ≤ a) && decide (a < pbufOff Config.params.pMax))

/-! ### Issue and finish -/

/-- R23, R70: the issue of an operation. OPREQ holds its word, the operation is latched, BUSY is set, ATO and ATT are
cleared; RES and RAW are kept (R24, D33). -/
def State.accept (s : State) (r : Request) : State :=
  { s with phase := .busy r, opreq := carrierWord r, ato := 0, att := 0 }

/-- R9, R200 `finish(res, raw)`, and `raise` for a result other than OK: the result is recorded, BUSY is cleared, and
nothing else changes. -/
def State.finish (s : State) (res : Res) (raw : Byte) : State :=
  { s with phase := .idle, res := res, raw := raw }

/-- R73: an accepted request with an unassigned operation code. -/
def State.raiseIllegal (s : State) : State := s.finish .illegal 0x00

/-! ### The wire streams -/

/-- R9 `TxWrite`, for each byte in order (R27). -/
def State.transmit (s : State) (bs : List Byte) : State := { s with txlog := s.txlog ++ bs }

/-- R28: the PEER's answer to a question for up to `k` bytes under timeout `t`. It is the next answer written down in the
state, and a free value past the last; never more than `k` bytes (log 3). -/
def State.answer (s : State) (k : Nat) (t : Word) : List Byte :=
  (match s.rxnext with
    | a :: _ => a
    | [] => Config.peerAnswer s.peer s.txlog (s.rxlog.map RxRead.answer) k t).take k

/-- R9, R28 `RxRead(k, t)`: the state once the question is answered; what was answered is `State.answer s k t`. -/
def State.received (s : State) (k : Nat) (t : Word) : State :=
  { s with
    rxlog := s.rxlog ++ [{ asked := k, timeout := t, after := s.txlog.length, answer := s.answer k t }]
    rxnext := s.rxnext.tail }

/-- The PEER's next answer is this one (log 8). -/
def State.peerSends (s : State) (bs : List Byte) : State := { s with rxnext := bs :: s.rxnext }

/-! ### Acknowledgment detection -/

/-- R150: a received acknowledgment byte ends the operation; RAW holds the byte. -/
def State.classify (s : State) (b : Byte) : State := s.finish (ackResult b) b

/-- R150 `AckDetect(t)`. -/
def State.ackDetect (s : State) (t : Word) : State :=
  match s.answer 1 t with
  | [] => (s.received 1 t).finish .timeout 0x00
  | b :: _ => (s.received 1 t).classify b

/-! ### The payload -/

/-- R120, R203: the operations over PBUF[0..PLEN-1]. ELEN comes before any effect, outside `lo <= PLEN <= P_MAX`; then
every cell is read, and an unwritten one marks the run; then the operation goes on with the payload. -/
def State.withPayload (s : State) (lo : Nat) (k : State → List Byte → State) : State :=
  if s.plen.toNat < lo ∨ Config.params.pMax < s.plen.toNat then s.finish .elen 0x00
  else
    k (s.mark (Memory.unwritten s.mem (pbufOff 0) s.plen.toNat)) (s.cells (pbufOff 0) s.plen.toNat)

/-- R122, R123, R125: the bytes are appended at PBUF[PLEN], all or none. -/
def State.appendPayload (s : State) (bs : List Byte) : State :=
  if Config.params.pMax < s.plen.toNat + bs.length then s.finish .elen 0x00
  else
    { s with
      mem := Memory.writeList s.mem (pbufOff s.plen.toNat) bs
      plen := BitVec.ofNat Config.widths.plenW (s.plen.toNat + bs.length) }.finish .ok 0x00

/-- R76, R127, R129, R131: CKSUM is the payload's XOR, and the payload and it go to TX. -/
def State.sendBlock (s : State) (p : List Byte) : State :=
  { s with cksum := xorfold p }.transmit (dataBlock p)

/-! ### The response buffer -/

/-- R33, R170, R172: the received bytes go to RBUF[0..], RCOUNT is their number; cells past them are kept. -/
def State.storeResponse (s : State) (p : List Byte) : State :=
  { s with mem := Memory.writeList s.mem (rbufOff 0) p, rcount := BitVec.ofNat 9 p.length }

end Sys2Proof.Machine
end

