-- ==== Sys2Proof/Machine/Bus.lean ====
section
/-! DEFINITION. The HOST's side of the block: the register map (R22, R37), the admitted accesses (R52, R53), reads and writes
in either phase (R41, R54, R215), and the platform's reset (R230, R231). -/

namespace Sys2Proof.Machine

/-- What an admitted offset names (R22, R37). A buffer cell is named by its offset. -/
inductive Target where
  | opreq
  | status
  | addr
  | plen
  | cksum
  | cmpl
  | rinfo
  | tmo
  | reserved
  | rbuf (off : Nat)
  | pbuf (off : Nat)
  deriving DecidableEq, Repr

/-- R22: the register at a word offset below 0x100; past 0x1C they are reserved. -/
def wordTarget (off : Nat) : Target :=
  if off = 0x00 then .opreq
  else if off = 0x04 then .status
  else if off = 0x08 then .addr
  else if off = 0x0C then .plen
  else if off = 0x10 then .cksum
  else if off = 0x14 then .cmpl
  else if off = 0x18 then .rinfo
  else if off = 0x1C then .tmo
  else .reserved

/-- R53: the admitted accesses and what they reach; none for every other offset and width, where the HOST is stuck.

DEDUCED (log 6, safe): R37 calls every unlisted offset reserved and R53 admits none of 0x200..0x1FFFF; R53 decides. -/
def target (off bits : Nat) : Option Target :=
  if bits = 32 ∧ off % 4 = 0 ∧ off < 0x100 then some (wordTarget off)
  else if bits = 8 ∧ rbufOff 0 ≤ off ∧ off < rbufOff Config.params.rbufSize then some (.rbuf off)
  else if bits = 8 ∧ pbufOff 0 ≤ off ∧ off < pbufOff Config.params.pMax then some (.pbuf off)
  else if bits = 8 ∧ 0x3FFFE ≤ off ∧ off < 0x40000 then some .reserved
  else none

/-- R202: whether reading a target is a model fault. -/
def Target.unwritten (t : Target) (m : Memory) : Bool :=
  match t with
  | .rbuf off => (Memory.read m off).isNone
  | .pbuf off => (Memory.read m off).isNone
  | .opreq => false
  | .status => false
  | .addr => false
  | .plen => false
  | .cksum => false
  | .cmpl => false
  | .rinfo => false
  | .tmo => false
  | .reserved => false

/-- R23, R24, R29 to R37: what a read returns while IDLE. -/
def State.peek (s : State) (t : Target) : Word :=
  match t with
  | .opreq => s.opreq
  | .status => s.statusWord
  | .addr => s.addr.setWidth 32
  | .plen => s.plen.setWidth 32
  | .cksum => s.cksum.setWidth 32
  | .cmpl => s.cmpl.setWidth 32
  | .rinfo => rinfoBits s.rcount s.rl
  | .tmo => s.tmo
  | .reserved => 0
  | .rbuf off => (s.cell off).setWidth 32
  | .pbuf off => (s.cell off).setWidth 32

/-- Whether the latched request decodes to one of these operations. -/
def latchedIn (r : Request) (ops : List Instr) : Bool :=
  match decode r with
  | .ok i => decide (i ∈ ops)
  | .error _ => false

/-- A number brought into the range 0..max. -/
def upTo (max x : Nat) : Nat := x % (max + 1)

/-- R24, R38, D33: ATO while the request runs. Only WAITACKTOL writes it after the issue, and it counts 0..TOL_READS. -/
def State.busyAto (s : State) (r : Request) (free : Word) : BitVec 4 :=
  if latchedIn r [.waitacktol] then BitVec.ofNat 4 (upTo Config.params.tolReads (free.extractLsb' 16 4).toNat) else s.ato

/-- R24, R38, D33: ATT while the request runs. Only HANDSHAKE writes it after the issue, and it counts 0..HS_ATTEMPTS. -/
def State.busyAtt (s : State) (r : Request) (free : Word) : BitVec 4 :=
  if latchedIn r [.handshake, .init] then
    BitVec.ofNat 4 (upTo Config.params.hsAttempts (free.extractLsb' 20 4).toNat)
  else s.att

/-- R24, R240: what a read returns while the request runs. BUSY, WERR, RES and RAW are as R24 keeps them; ATO and ATT are as
the issue left them, except that the operation which counts in one of them may have counted. CKSUM, CMPL, RINFO and RBUF are
not meaningful, and their bits are taken from `free`, RCOUNT within its range (R33).

DEDUCED (log 4, safe): "not meaningful" is a free value; reserved bits still read 0. -/
def State.peekBusy (s : State) (r : Request) (free : Word) (t : Target) : Word :=
  match t with
  | .status => statusBits (s.busyAtt r free) (s.busyAto r free) s.raw s.res s.werr s.isBusy
  | .cksum => (free.extractLsb' 0 8).setWidth 32
  | .cmpl => (free.extractLsb' 0 8).setWidth 32
  | .rinfo => rinfoBits (BitVec.ofNat 9 (upTo Config.params.rbufSize (free.extractLsb' 8 9).toNat)) (free.extractLsb' 0 8)
  | .rbuf _ => (free.extractLsb' 0 8).setWidth 32
  | .opreq => s.peek .opreq
  | .addr => s.peek .addr
  | .plen => s.peek .plen
  | .tmo => s.peek .tmo
  | .reserved => s.peek .reserved
  | .pbuf off => s.peek (.pbuf off)

/-- What the HOST reads at a target, in the phase the state is in. -/
def State.readTarget (s : State) (off : Nat) (t : Target) : Word :=
  match s.phase with
  | .idle => s.peek t
  | .busy r => s.peekBusy r (Config.busyRead s.peer s.readlog.length off) t

/-- R41, R54, R202: a HOST read. It changes nothing but the record of what was read and, at an unwritten cell, the fault
mark. -/
def State.hostRead (s : State) (off bits : Nat) : Result :=
  match target off bits with
  | none => .fault (.notAdmitted off bits)
  | some t => .next { s.mark (t.unwritten s.mem) with readlog := s.readlog ++ [(off, s.readTarget off t)] }

/-- R23, R29, R30, R34, R35, R37: a write that is accepted. OPREQ starts an operation (R70).

DEDUCED (log 7, unsafe): a write to what the FRAMER alone writes (STATUS, CKSUM, CMPL, RINFO, RBUF) changes nothing. -/
def State.storeTarget (s : State) (t : Target) (v : Word) : State :=
  match t with
  | .opreq => s.accept (.opreq v)
  | .status => s
  | .addr => { s with addr := v.setWidth Config.widths.addrW }
  | .plen => { s with plen := v.setWidth Config.widths.plenW }
  | .cksum => s
  | .cmpl => s
  | .rinfo => s
  | .tmo => { s with tmo := v }
  | .reserved => s
  | .rbuf _ => s
  | .pbuf off => { s with mem := Memory.write s.mem off (v.setWidth Config.widths.byteBits) }

/-- R41: a write while BUSY is dropped, and WERR is set. -/
def State.dropWrite (s : State) : State := { s with werr := true }

/-- R41: a HOST write. -/
def State.hostWrite (s : State) (off bits : Nat) (v : Word) : Result :=
  match target off bits with
  | none => .fault (.notAdmitted off bits)
  | some t =>
    match s.phase with
    | .idle => .next (s.storeTarget t v)
    | .busy _ => .next s.dropWrite

/-- R85 `expect`: unless the last result is `r`, the program aborts: nothing of it runs any more, up to the platform's next
reset (log 16). -/
def State.expectResult (s : State) (r : Res) : State :=
  if s.res = r then s else { s with inputs := s.inputs.dropWhile (fun i => decide (i ≠ .reset)) }

/-- R230, R231: every piece of the FRAMER's state takes its reset value, in either phase. The outside world goes on: its
entries and its record stay, and another oracle answers, since nothing may be assumed about the PEER (log 11). The fault
mark stays, since no later step clears it (R202; log 5), and an abandoned operation has not set it (log 19). -/
def State.platformReset (s : State) : State :=
  { State.reset with
    rxnext := s.rxnext
    peer := s.peer + 1
    inputs := s.inputs
    readlog := s.readlog
    faultMark := s.faultMark
    unwrittenReads := s.unwrittenReads }

/-- One entry of the outside world, already taken from `inputs`. -/
def State.input (s : State) (i : Input) : Result :=
  match i with
  | .write off bits v => s.hostWrite off bits v
  | .read off bits => s.hostRead off bits
  | .wait => .next s
  | .expect r => .next (s.expectResult r)
  | .reset => .next s.platformReset

end Sys2Proof.Machine
end

