-- ==== Sys2Proof/Machine/Ack.lean ====
section
/-! DEFINITION. Acknowledgment detection (43_ack_detection.md). -/

namespace Sys2Proof.Machine

/-- R152: the tolerant loop with `left` reads to go. ATO counts the timeouts absorbed so far; the first byte that arrives
ends it, and so does the last timeout, with OK. -/
def State.tolerantReads (s : State) (left : Nat) : State :=
  match left with
  | 0 => s.finish .ok 0x00
  | n + 1 =>
    match s.answer 1 s.tmo with
    | [] =>
      State.tolerantReads { s.received 1 s.tmo with ato := BitVec.ofNat 4 (Config.params.tolReads - n) } n
    | b :: _ => (s.received 1 s.tmo).classify b

/-- R84, R153: one INIT byte has been sent by attempt `a`; the window of its answer is then read, under HS_TMO_MS and not
TMO (R154). -/
def State.handshakeSend (s : State) (a : Nat) : State :=
  { s with att := BitVec.ofNat 4 a }.transmit [Config.params.initByte]

/-- R153: the handshake with `left` attempts to go; `raw` is what the attempts so far leave to report. -/
def State.handshakeAttempts (s : State) (left : Nat) (raw : Byte) : State :=
  match left with
  | 0 => s.finish .hsfail raw
  | n + 1 =>
    let sent := s.handshakeSend (Config.params.hsAttempts - n)
    let window := sent.answer Config.params.hsWindow Config.params.hsTmoMs
    let heard := sent.received Config.params.hsWindow Config.params.hsTmoMs
    if window.getLast? = some Config.params.ack then heard.finish .ok Config.params.ack
    else heard.handshakeAttempts n (window.getLast?.getD 0x00)

/-- R153: the whole handshake. -/
def State.performHandshake (s : State) : State := s.handshakeAttempts Config.params.hsAttempts 0x00

/-- R151 WAITACK. -/
def execWaitack (s : State) : Result := .next (s.ackDetect s.tmo)

/-- R152 WAITACKTOL. -/
def execWaitacktol (s : State) : Result := .next (s.tolerantReads Config.params.tolReads)

/-- R153 HANDSHAKE. -/
def execHandshake (s : State) : Result := .next s.performHandshake

end Sys2Proof.Machine
end

