-- ==== Sys2Proof/Machine/Checksum.lean ====
section
/-! DEFINITION. The checksum generator (40_checksum.md). -/

namespace Sys2Proof.Machine

/-- R102 CKXOR. -/
def execCkxor (s : State) : Result :=
  .next (s.withPayload 0 (fun t p => { t with cksum := xorfold p }.finish .ok 0x00))

/-- R103 COMPL. -/
def execCompl (imm8 : Byte) (s : State) : Result := .next ({ s with cmpl := cpl imm8 }.finish .ok 0x00)

end Sys2Proof.Machine
end

