-- ==== Sys2Proof/Machine/Command.lean ====
section
/-! DEFINITION. The command framer (41_command_framer.md). -/

namespace Sys2Proof.Machine

/-- R110: the command frame of `c` and its acknowledgment. -/
def State.sendCommand (s : State) (c : Byte) : State :=
  ({ s with cmpl := cpl c }.transmit (commandFrame c)).ackDetect s.tmo

/-- R110 SENDCMD. -/
def execSendcmd (imm8 : Byte) (s : State) : Result := .next (s.sendCommand imm8)

/-- R111 SENDBYTE. -/
def execSendbyte (imm8 : Byte) (s : State) : Result := .next ((s.transmit [imm8]).finish .ok 0x00)

/-- R112 NOP. -/
def execNop (s : State) : Result := .next (s.finish .ok 0x00)

end Sys2Proof.Machine
end

