-- ==== Sys2Proof/Machine/Datablock.lean ====
section
/-! DEFINITION. Payload assembly, the serializer and the DataBlock framer (42_datablock_framer.md). -/

namespace Sys2Proof.Machine

/-- R121: the payload is emptied, the cells are kept. -/
def State.clearPayload (s : State) : State := { s with plen := 0 }.finish .ok 0x00

/-- R129: the payload as a DataBlock, no acknowledgment. -/
def State.sendFrame (s : State) : State := s.withPayload 1 (fun t p => (t.sendBlock p).finish .ok 0x00)

/-- R121 CLRBUF. -/
def execClrbuf (s : State) : Result := .next s.clearPayload

/-- R122 PUT8. -/
def execPut8 (imm8 : Byte) (s : State) : Result := .next (s.appendPayload [imm8])

/-- R123 PUT16BE. -/
def execPut16be (imm16 : Half) (s : State) : Result := .next (s.appendPayload (be16 imm16))

/-- R125 PUT32BE. -/
def execPut32be (s : State) : Result := .next (s.appendPayload (be32 s.addr))

/-- R126, R127 SENDBLK. -/
def execSendblk (s : State) : Result :=
  .next (s.withPayload 1 (fun t p => (t.sendBlock p).ackDetect t.tmo))

/-- R126, R129 SENDFRAME. -/
def execSendframe (s : State) : Result := .next s.sendFrame

/-- R131 SENDADDR. -/
def execSendaddr (s : State) : Result := .next ((s.sendBlock (be32 s.addr)).ackDetect s.tmo)

end Sys2Proof.Machine
end

