-- ==== Sys2Proof/Machine/Response.lean ====
section
/-! DEFINITION. The response decoder and the raw receive (44_response_decoder.md). -/

namespace Sys2Proof.Machine

/-- R33: RINFO is cleared. -/
def State.clearRinfo (s : State) : State := { s with rl := 0, rcount := 0 }

/-- R170: the payload of a response whose length byte is `len`, then its acknowledgment. -/
def State.readPayload (s : State) (len : Byte) : State :=
  let p := s.answer (len.toNat + 1) s.tmo
  let t := (s.received (len.toNat + 1) s.tmo).storeResponse p
  if p.length < len.toNat + 1 then t.finish .timeout 0x00 else t.ackDetect s.tmo

/-- R170: a length-prefixed response. -/
def State.readResponse (s : State) : State :=
  match s.clearRinfo.answer 1 s.tmo with
  | [] => (s.clearRinfo.received 1 s.tmo).finish .timeout 0x00
  | len :: _ => { s.clearRinfo.received 1 s.tmo with rl := len }.readPayload len

/-- R172: `n` raw bytes. -/
def State.readRaw (s : State) (n : Nat) : State :=
  if n < 1 ∨ Config.params.block < n then s.finish .elen 0x00
  else
    let p := s.clearRinfo.answer n s.tmo
    ((s.clearRinfo.received n s.tmo).storeResponse p).finish (if p.length < n then .short else .ok) 0x00

/-- R170 READRESP. -/
def execReadresp (s : State) : Result := .next s.readResponse

/-- R172 READRAW. -/
def execReadraw (imm16 : Half) (s : State) : Result := .next (s.readRaw imm16.toNat)

end Sys2Proof.Machine
end

