-- ==== Sys2Proof/Machine/Wire.lean ====
section
/-! DEFINITION. The wire patterns of the opcode table (R74, R75, R78, R80, R84). A pattern is no operation of its own: its
meaning is that of the operation the spec says has it on the wire, with the pattern's bytes as operand.

DESIGN CHOICE (log 8, unsafe): the spec gives these rows byte layouts and the operation that sends or takes them, and no
way to be requested by themselves. No HOST action starts one (R215); a state that has one latched is made by `State.place`. -/

namespace Sys2Proof.Machine

/-- R80, R97: the sentinel frame of `v` goes out as CLRBUF, PUT16BE v, SENDFRAME. -/
def State.sendSentinel (s : State) (v : Half) : State := (s.clearPayload.appendPayload (be16 v)).sendFrame

/-- R78, R150, R151: the control byte comes from the PEER, as the answer WAITACK takes and classifies. -/
def State.takeControl (s : State) (b : Byte) : State := (s.peerSends [b]).ackDetect s.tmo

/-- R75, R110 CMD_GET: sent by SENDCMD. -/
def execCmdGet (s : State) : Result := .next (s.sendCommand Config.params.get)

/-- R75, R110 CMD_GET_ID: sent by SENDCMD. -/
def execCmdGetId (s : State) : Result := .next (s.sendCommand Config.params.getId)

/-- R75, R110 CMD_READ: sent by SENDCMD. -/
def execCmdRead (s : State) : Result := .next (s.sendCommand Config.params.read)

/-- R75, R110 CMD_GO: sent by SENDCMD. -/
def execCmdGo (s : State) : Result := .next (s.sendCommand Config.params.go)

/-- R75, R110 CMD_WRITE: sent by SENDCMD. -/
def execCmdWrite (s : State) : Result := .next (s.sendCommand Config.params.write)

/-- R75, R110 CMD_ERASE: sent by SENDCMD. The FRAMER does not check a command code (R110). -/
def execCmdErase (s : State) : Result := .next (s.sendCommand Config.params.erase)

/-- R75, R110 CMD_ERASE_EXTENDED: sent by SENDCMD. -/
def execCmdEraseExtended (s : State) : Result := .next (s.sendCommand Config.params.eraseExtended)

/-- R74, R84, R153 INIT: sent by HANDSHAKE, every attempt of which is one exchange of R84. -/
def execInit (s : State) : Result := .next s.performHandshake

/-- R78, R150 ACK. -/
def execAck (s : State) : Result := .next (s.takeControl Config.params.ack)

/-- R78, R150 NACK. -/
def execNack (s : State) : Result := .next (s.takeControl Config.params.nack)

/-- R80, R129 SENTINEL_MASS: sent by SENDFRAME. -/
def execSentinelMass (s : State) : Result := .next (s.sendSentinel Config.params.sentinelMass)

/-- R80, R129 SENTINEL_BANK1: sent by SENDFRAME. -/
def execSentinelBank1 (s : State) : Result := .next (s.sendSentinel Config.params.sentinelBank1)

/-- R80, R129 SENTINEL_BANK2: sent by SENDFRAME. -/
def execSentinelBank2 (s : State) : Result := .next (s.sendSentinel Config.params.sentinelBank2)

end Sys2Proof.Machine
end

