-- ==== Sys2Proof/Machine/Dispatch.lean ====
section
/-! DEFINITION. What each row of the opcode table does, once it has been issued. -/

namespace Sys2Proof.Machine

-- One arm per constructor, in the table's order; the meaning is named in full.
def exec (i : Instr) (s : State) : Host.Outcome State Fault Refusal :=
  match i with
  | .nop => Sys2Proof.Machine.execNop s
  | .ckxor => Sys2Proof.Machine.execCkxor s
  | .compl imm8 => Sys2Proof.Machine.execCompl imm8 s
  | .clrbuf => Sys2Proof.Machine.execClrbuf s
  | .put8 imm8 => Sys2Proof.Machine.execPut8 imm8 s
  | .put16be imm16 => Sys2Proof.Machine.execPut16be imm16 s
  | .put32be => Sys2Proof.Machine.execPut32be s
  | .sendcmd imm8 => Sys2Proof.Machine.execSendcmd imm8 s
  | .sendbyte imm8 => Sys2Proof.Machine.execSendbyte imm8 s
  | .sendblk => Sys2Proof.Machine.execSendblk s
  | .sendframe => Sys2Proof.Machine.execSendframe s
  | .sendaddr => Sys2Proof.Machine.execSendaddr s
  | .waitack => Sys2Proof.Machine.execWaitack s
  | .waitacktol => Sys2Proof.Machine.execWaitacktol s
  | .handshake => Sys2Proof.Machine.execHandshake s
  | .readresp => Sys2Proof.Machine.execReadresp s
  | .readraw imm16 => Sys2Proof.Machine.execReadraw imm16 s
  | .cmdGet => Sys2Proof.Machine.execCmdGet s
  | .cmdGetId => Sys2Proof.Machine.execCmdGetId s
  | .cmdRead => Sys2Proof.Machine.execCmdRead s
  | .cmdGo => Sys2Proof.Machine.execCmdGo s
  | .cmdWrite => Sys2Proof.Machine.execCmdWrite s
  | .cmdErase => Sys2Proof.Machine.execCmdErase s
  | .cmdEraseExtended => Sys2Proof.Machine.execCmdEraseExtended s
  | .init => Sys2Proof.Machine.execInit s
  | .ack => Sys2Proof.Machine.execAck s
  | .nack => Sys2Proof.Machine.execNack s
  | .sentinelMass => Sys2Proof.Machine.execSentinelMass s
  | .sentinelBank1 => Sys2Proof.Machine.execSentinelBank1 s
  | .sentinelBank2 => Sys2Proof.Machine.execSentinelBank2 s

end Sys2Proof.Machine
end

