-- ==== Sys2Proof/Machine/Turn.lean ====
section
/-! DEFINITION. Who moves next, the FRAMER or the outside world (R57), and the FRAMER's move: the latched operation is
decoded and runs to its finish as one atomic step (D27). -/

namespace Sys2Proof.Machine

/-- Who moves next. -/
inductive Mover where
  /-- The FRAMER runs the latched operation. -/
  | framer (r : Request)
  /-- The outside world's next entry takes effect, the others follow. -/
  | outside (i : Input) (rest : List Input)
  /-- The FRAMER waits in IDLE (R232) and nothing is to come. -/
  | nobody
  deriving DecidableEq, Repr

/-- R57, R85, R240: a running operation finishes once the HOST waits for it, or has nothing more to do; every other entry
takes effect first, while BUSY.

DESIGN CHOICE (log 2, safe): the order of HOST and FRAMER is read from the list of inputs.

DESIGN CHOICE (log 19, unsafe): a reset while BUSY (R231) lands before the operation's first line, so an operation it abandons
has read no payload and sets no fault mark. -/
def State.mover (s : State) : Mover :=
  match s.phase, s.inputs with
  | .busy r, [] => .framer r
  | .busy r, .wait :: _ => .framer r
  | .busy r, .expect _ :: _ => .framer r
  | .busy _, i :: rest => .outside i rest
  | .idle, i :: rest => .outside i rest
  | .idle, [] => .nobody

/-- R70, R73: the latched request is decoded and its rule runs; an unassigned operation code finishes with ILLEGAL. -/
def State.runRequest (s : State) (r : Request) : Result :=
  match decode r with
  | .ok i => exec i s
  | .error (.unassignedOpc _) => .next s.raiseIllegal
  | .error (.unknownFrame bytes) => .refused (.unknownFrame bytes)

/-- One step. -/
def State.move (s : State) : Result :=
  match s.mover with
  | .framer r => s.runRequest r
  | .outside i rest => { s with inputs := rest }.input i
  | .nobody => .next s

/-- The state in which a request has just been issued and the HOST waits for it: the next step runs it (log 15). -/
def State.place (s : State) (r : Request) : State := { s.accept r with inputs := .wait :: s.inputs }

end Sys2Proof.Machine
end

