-- ==== Sys2Proof/Machine/Step.lean ====
section
/-! DEFINITION. One step of the machine, and how the host places an instruction where the next step runs it. -/

namespace Sys2Proof.Machine

/-- One step: a HOST access, a reset, or the running operation to its finish (R57, D27). -/
def step (s : State) : Host.Outcome State Fault Refusal := Sys2Proof.Machine.State.move s

/-- `s` with the instruction of these bits, as the opcode table numbers them, issued and waited for, so that the very next
step runs it (log 15). -/
def State.withFetchWord (s : State) (nbits w : Nat) : State :=
  Sys2Proof.Machine.State.place s (Sys2Proof.tableRequest nbits w)

end Sys2Proof.Machine
end

