-- ==== Sys2Proof/Safety.lean ====
section
/-! DEFINITION. What holds in every state a run can reach, and what a careful HOST does: the terms the statements use. -/

namespace Sys2Proof.Machine

/-- R35, R36: the memory is in its canonical form, and every cell listed is one of PBUF or RBUF. -/
abbrev State.CellsOk (s : State) : Prop :=
  Memory.wf s.mem = true ∧ ∀ c ∈ s.mem, isCell c.1 = true

/-- R33, R36: RCOUNT is at most 256, and RBUF[0..RCOUNT-1] have been written. -/
abbrev State.ResponseHeld (s : State) : Prop :=
  s.rcount.toNat ≤ Config.params.rbufSize ∧
    ∀ i, i < s.rcount.toNat → (Memory.read s.mem (rbufOff i)).isSome = true

/-- R24, R38: the counters stay in range, and both are 0 from the issue of an operation on until it runs. That they are 0
all the while BUSY is the model's choice: an operation runs in one step (log 1). -/
abbrev State.CountersOk (s : State) : Prop :=
  s.ato.toNat ≤ Config.params.tolReads ∧ s.att.toNat ≤ Config.params.hsAttempts ∧
    (s.isBusy = true → s.ato = 0 ∧ s.att = 0)

/-- R201, the column "recorded": what RAW (and ATT, until the next issue) holds beside each result. -/
abbrev State.ResultRecorded (s : State) : Prop :=
  (s.res = .ok → s.raw = Config.params.ack ∨ s.raw = 0x00) ∧
    (s.res = .nack → s.raw = Config.params.nack) ∧
    (s.res = .unexpected → s.raw ≠ Config.params.ack ∧ s.raw ≠ Config.params.nack) ∧
    (s.res = .hsfail → s.raw ≠ Config.params.ack ∧ (s.isBusy = false → s.att = BitVec.ofNat 4 Config.params.hsAttempts)) ∧
    (s.res = .timeout ∨ s.res = .short ∨ s.res = .elen ∨ s.res = .illegal → s.raw = 0x00)

/-- R202: the run carries the fault mark exactly when some access has met an unwritten cell. -/
abbrev State.MarkOk (s : State) : Prop := s.faultMark = decide (0 < s.unwrittenReads)

/-- The invariant of the machine. -/
abbrev State.Inv (s : State) : Prop :=
  s.CellsOk ∧ s.ResponseHeld ∧ s.CountersOk ∧ s.ResultRecorded ∧ s.MarkOk

/-- R240: a HOST that waits for every operation it starts before its next write. `busy` says whether an operation is
running. Reads are free (R41), and a reset ends the operation (R231). -/
def polls (busy : Bool) (inputs : List Input) : Bool :=
  match inputs with
  | [] => true
  | .write off bits _ :: rest => !busy && polls (target off bits == some .opreq) rest
  | .read _ _ :: rest => polls busy rest
  | .wait :: rest => polls false rest
  | .expect _ :: rest => polls false rest
  | .reset :: rest => polls false rest

/-- R240: the rest of the run is a HOST's that polls. -/
def State.Disciplined (s : State) : Prop := polls s.isBusy s.inputs = true

/-! ### The terms the statements about operations use -/

/-- R70, R71, R72: an OPREQ word with this operation code, whatever its unused fields hold, decodes to this instruction of
its operand fields; and a write of it while IDLE latches it, sets BUSY, clears ATO and ATT and changes nothing else. -/
def IssuedBy (opc : Byte) (i : Byte → Half → Instr) : Prop :=
  ∀ w : Word, w.extractLsb' 0 8 = opc →
    decode (.opreq w) = .ok (i (w.extractLsb' 8 8) (w.extractLsb' 16 16)) ∧
    ∀ (s : State) (rest : List Input), s.phase = .idle → s.inputs = .write 0x00 32 w :: rest →
      step s = .next { s with phase := .busy (.opreq w), opreq := w, ato := 0, att := 0, inputs := rest }

/-- R40: the table of reset values. -/
abbrev State.HasResetValues (s : State) : Prop :=
  s.phase = .idle ∧ s.opreq = 0x00000000 ∧ s.statusWord = 0x00000000 ∧ s.werr = false ∧ s.res = .ok ∧ s.raw = 0x00 ∧
    s.ato = 0 ∧ s.att = 0 ∧ s.addr = 0x00000000 ∧ s.plen = 0 ∧ s.cksum = 0x00 ∧ s.cmpl = 0x00 ∧ s.rl = 0 ∧
    s.rcount = 0 ∧ s.tmo = 2000 ∧ (∀ a, Memory.read s.mem a = none) ∧ s.txlog = [] ∧ s.rxlog = []

/-- R120: the payload PBUF[0..PLEN-1] is this byte sequence, every cell of it written. -/
def State.HoldsPayload (s : State) (p : List Byte) : Prop :=
  p.length = s.plen.toNat ∧ ∀ i, i < p.length → Memory.read s.mem (0x20000 + i) = p[i]?

/-- R202: the payload has an unwritten cell. -/
def State.HasUnwritten (s : State) : Prop := ∃ i, i < s.plen.toNat ∧ Memory.read s.mem (0x20000 + i) = none

/-- R202 (log 5): what reading PBUF[0..PLEN-1] may give: the written bytes where the cells are written, and any bytes where
they are not. -/
def State.MayRead (s : State) (p : List Byte) : Prop :=
  p.length = s.plen.toNat ∧ ∀ (i : Nat) (b : Byte), i < p.length → Memory.read s.mem (0x20000 + i) = some b → p[i]? = some b

/-- R202 (log 5): the run after an access that met an unwritten cell. -/
abbrev State.marked (s : State) : State := s.mark true

/-- `m'` is `m` with these bytes stored from this offset on: every other cell reads as before. -/
def Stored (m m' : Memory) (off : Nat) (bs : List Byte) : Prop :=
  ∀ a, Memory.read m' a = if off ≤ a ∧ a < off + bs.length then bs[a - off]? else Memory.read m a

/-- R28: these are reads the PEER may answer from this state on: no answer is longer than what was asked, and as far as
the answers are written down in the state, they are the ones given. -/
def State.Reads (s : State) (rs : List RxRead) : Prop :=
  ∀ (j : Nat) (r : RxRead), rs[j]? = some r →
    r.answer.length ≤ r.asked ∧ ∀ a : List Byte, s.rxnext[j]? = some a → r.answer = a.take r.asked

/-- R78, R150: the four results of an acknowledgment read. -/
def ackRes (a : List Byte) : Res :=
  match a with
  | [] => .timeout
  | b :: _ => if b = 0x79 then .ok else if b = 0x1F then .nack else .unexpected

/-- R150: the state after AckDetect(t) has been answered with `a`: one read more, its result, and the byte in RAW (0x00
when none came). -/
def State.afterAck (s : State) (t : Word) (a : List Byte) : State :=
  { s with
    rxlog := s.rxlog ++ [{ asked := 1, timeout := t, after := s.txlog.length, answer := a }]
    rxnext := s.rxnext.tail
    phase := .idle
    res := ackRes a
    raw := a.headD 0x00 }

/-- R201, the column "produced by": the results an operation can have. A wire pattern has those of its operation. -/
def mayProduce (i : Instr) : List Res :=
  match i with
  | .nop => [.ok]
  | .ckxor => [.ok, .elen]
  | .compl _ => [.ok]
  | .clrbuf => [.ok]
  | .put8 _ => [.ok, .elen]
  | .put16be _ => [.ok, .elen]
  | .put32be => [.ok, .elen]
  | .sendcmd _ => [.ok, .nack, .unexpected, .timeout]
  | .sendbyte _ => [.ok]
  | .sendblk => [.ok, .nack, .unexpected, .timeout, .elen]
  | .sendframe => [.ok, .elen]
  | .sendaddr => [.ok, .nack, .unexpected, .timeout]
  | .waitack => [.ok, .nack, .unexpected, .timeout]
  | .waitacktol => [.ok, .nack, .unexpected]
  | .handshake => [.ok, .hsfail]
  | .readresp => [.ok, .nack, .unexpected, .timeout]
  | .readraw _ => [.ok, .short, .elen]
  | .cmdGet => [.ok, .nack, .unexpected, .timeout]
  | .cmdGetId => [.ok, .nack, .unexpected, .timeout]
  | .cmdRead => [.ok, .nack, .unexpected, .timeout]
  | .cmdGo => [.ok, .nack, .unexpected, .timeout]
  | .cmdWrite => [.ok, .nack, .unexpected, .timeout]
  | .cmdErase => [.ok, .nack, .unexpected, .timeout]
  | .cmdEraseExtended => [.ok, .nack, .unexpected, .timeout]
  | .init => [.ok, .hsfail]
  | .ack => [.ok]
  | .nack => [.nack]
  | .sentinelMass => [.ok]
  | .sentinelBank1 => [.ok]
  | .sentinelBank2 => [.ok]

/-- R206: the operations that absorb a timeout. -/
def absorbsTimeouts (i : Instr) : Bool := i == .waitacktol || i == .handshake || i == .init

/-- R53: the admitted accesses, in the spec's numbers. -/
abbrev Admitted (off bits : Nat) : Prop :=
  (bits = 32 ∧ off % 4 = 0 ∧ off ≤ 0xFC) ∨
    (bits = 8 ∧ ((0x100 ≤ off ∧ off ≤ 0x1FF) ∨ (0x20000 ≤ off ∧ off ≤ 0x3FFFF)))

end Sys2Proof.Machine
end

