-- ==== Sys2Proof/Certificates/Slice0/Obligations.lean ====
section
/-! DEFINITION. The statements for the provers, each from the numbered rules of spec/. -/

open Sys2Proof Sys2Proof.Machine

/-! ### Encoding -/

/-- R70 to R75, R80: decoding the request of an instruction gives it back, for every row and every operand. -/
def Obligations.DecodeInvertsEncode : Prop := ∀ i : Instr, decode (encode i) = .ok i

/-- R71, R72: a decoded word and the encoding of its instruction agree in OPC and in every operand field the operation
uses; the other fields are ignored, and the encoding holds 0 there. -/
def Obligations.DecodedWordKeepsItsOperands : Prop :=
  ∀ (w : Word) (i : Instr), decode (.opreq w) = .ok i →
    (encodeOpreq i).extractLsb' 0 8 = w.extractLsb' 0 8 ∧
    (encodeOpreq i).extractLsb' 8 8 =
      (if w.extractLsb' 0 8 ∈ [(0x02 : Byte), 0x09, 0x10, 0x11] then w.extractLsb' 8 8 else 0) ∧
    (encodeOpreq i).extractLsb' 16 16 =
      (if w.extractLsb' 0 8 ∈ [(0x0A : Byte), 0x31] then w.extractLsb' 16 16 else 0)

/-- R73: the unassigned codes are the ranges the rule lists; a write of one while IDLE, and the finish of the operation it
starts, change STATUS and nothing else: ILLEGAL, RAW 0x00, ATO and ATT cleared (OPREQ holds the word, R23). -/
def Obligations.UnassignedOpcodeFinishesIllegal : Prop :=
  ∀ (s : State) (w : Word) (rest : List Input),
    ((0x03 ≤ (w.extractLsb' 0 8).toNat ∧ (w.extractLsb' 0 8).toNat ≤ 0x07) ∨
      (0x0C ≤ (w.extractLsb' 0 8).toNat ∧ (w.extractLsb' 0 8).toNat ≤ 0x0F) ∨
      (0x12 ≤ (w.extractLsb' 0 8).toNat ∧ (w.extractLsb' 0 8).toNat ≤ 0x17) ∨
      (0x1B ≤ (w.extractLsb' 0 8).toNat ∧ (w.extractLsb' 0 8).toNat ≤ 0x1F) ∨
      (0x23 ≤ (w.extractLsb' 0 8).toNat ∧ (w.extractLsb' 0 8).toNat ≤ 0x2F) ∨
      0x32 ≤ (w.extractLsb' 0 8).toNat) →
    s.phase = .idle → s.inputs = .write 0x00 32 w :: .wait :: rest →
    ∃ u, step s = .next u ∧
      step u = .next { s with
        opreq := w, ato := 0, att := 0, res := .illegal, raw := 0x00, inputs := .wait :: rest }

/-- R72, R75, R78, R80, R85: words and frames written out from the spec decode to what they stand for. -/
def Obligations.WrittenOutWordsDecode : Prop :=
  decode (.opreq 0xFFFF4410) = .ok (.sendcmd 0x44) ∧
  decode (.opreq 0x0002000A) = .ok (.put16be 0x0002) ∧
  decode (.opreq 0x01000031) = .ok (.readraw 256) ∧
  decode (.opreq 0x00000001) = .ok .ckxor ∧
  decode (.opreq 0x0000DE09) = .ok (.put8 0xDE) ∧
  decode (.opreq 0x00000022) = .ok .handshake ∧
  decode (.frame [0x44, 0xBB]) = .ok .cmdEraseExtended ∧
  decode (.frame [0x1F]) = .ok .nack ∧
  decode (.frame [0xFF, 0xFE, 0x01]) = .ok .sentinelBank1

/-! ### The step -/

/-- R70, R57: once issued and waited for (or with nothing more to come), the latched operation is what the step runs. That
it runs as one step, and when, is the model's choice (logs 1 and 2). -/
def Obligations.StepRunsLatchedOperation : Prop :=
  ∀ (s : State) (r : Request) (i : Instr), s.phase = .busy r → decode r = .ok i →
    (s.inputs = [] ∨ (∃ rest, s.inputs = .wait :: rest) ∨ ∃ q rest, s.inputs = .expect q :: rest) →
    step s = exec i s

/-- R73, R57: a latched word with an operation code that R72 does not list finishes with ILLEGAL and RAW 0x00 once waited
for (or with nothing more to come), whatever came before, and changes nothing else. That it runs as one step, and when, is
the model's choice (logs 1 and 2). -/
def Obligations.StepRunsUnassignedWord : Prop :=
  ∀ (s : State) (w : Word), s.phase = .busy (.opreq w) →
    w.extractLsb' 0 8 ∉ [(0x00 : Byte), 0x01, 0x02, 0x08, 0x09, 0x0A, 0x0B, 0x10, 0x11, 0x18, 0x19, 0x1A, 0x20, 0x21, 0x22,
      0x30, 0x31] →
    (s.inputs = [] ∨ (∃ rest, s.inputs = .wait :: rest) ∨ ∃ q rest, s.inputs = .expect q :: rest) →
    step s = .next { s with phase := .idle, res := .illegal, raw := 0x00 }

/-- R232: in IDLE, with no access and no reset to come, the FRAMER waits and nothing changes; an answered wait in IDLE
changes nothing either. That the step then answers a next state is the model's choice (log 2). -/
def Obligations.IdleMachineWaits : Prop :=
  ∀ s : State, s.phase = .idle →
    (s.inputs = [] → step s = .next s) ∧
    ∀ rest, s.inputs = .wait :: rest → step s = .next { s with inputs := rest }

/-- R40, R230, R231: the machine starts with every piece of the FRAMER's state at its reset value, and a reset, in either
phase, gives it that value. -/
def Obligations.ResetInputRestoresResetValues : Prop :=
  State.reset.HasResetValues ∧
  ∀ (s : State) (rest : List Input), s.inputs = .reset :: rest →
    ∃ t, step s = .next t ∧ t.inputs = rest ∧ t.HasResetValues

/-- R85: `expect` does nothing but compare the last result; where it differs, no later line of the program runs (log 16:
up to the platform's next reset). -/
def Obligations.ExpectAbortsOnOtherResult : Prop :=
  ∀ (s : State) (q : Res) (rest : List Input), s.phase = .idle → s.inputs = .expect q :: rest →
    (s.res = q → step s = .next { s with inputs := rest }) ∧
    (s.res ≠ q → Input.reset ∉ rest → step s = .next { s with inputs := [] })

/-! ### The checksum generator -/

/-- R104 (a) to (f): the laws of the fold and of the complement. -/
def Obligations.ChecksumLaws : Prop :=
  (∀ b : List Byte, xorfold b = xorfold b.reverse) ∧
  (∀ b : List Byte, xorfold (b ++ [xorfold b]) = 0x00) ∧
  (∀ x : Byte, cpl (cpl x) = x) ∧
  (∀ a b : List Byte, xorfold (a ++ b) = xorfold a ^^^ xorfold b) ∧
  (∀ a b : List Byte, a.Perm b → xorfold a = xorfold b) ∧
  (∀ x : Byte, cpl x ^^^ x = 0xFF)

/-- R100: the recursion of the fold; R101: the complement is XOR with 0xFF, bitwise NOT and 255 - b. -/
def Obligations.FoldAndComplementDefined : Prop :=
  xorfold [] = 0x00 ∧ (∀ (p : List Byte) (b : Byte), xorfold (p ++ [b]) = xorfold p ^^^ b) ∧
  ∀ b : Byte, cpl b = 0xFF ^^^ b ∧ cpl b = ~~~b ∧ (cpl b).toNat = 255 - b.toNat

/-- R102 CKXOR. The last clause is the model's choice (log 5): with an unwritten cell the run is marked and goes on, with
what the cells read as in place of the payload. -/
def Obligations.CkxorFoldsPayload : Prop :=
  IssuedBy 0x01 (fun _ _ => .ckxor) ∧
  (∀ (s : State) (p : List Byte), s.plen.toNat ≤ 131070 → s.HoldsPayload p →
    exec .ckxor s = .next { s with cksum := xorfold p, phase := .idle, res := .ok, raw := 0x00 }) ∧
  (∀ s : State, 131070 < s.plen.toNat →
    exec .ckxor s = .next { s with phase := .idle, res := .elen, raw := 0x00 }) ∧
  ∀ s : State, s.plen.toNat ≤ 131070 → s.HasUnwritten → ∃ p, s.MayRead p ∧
    exec .ckxor s = .next { s.marked with cksum := xorfold p, phase := .idle, res := .ok, raw := 0x00 }

/-- R103 COMPL. -/
def Obligations.ComplWritesComplement : Prop :=
  IssuedBy 0x02 (fun b _ => .compl b) ∧
  ∀ (s : State) (b : Byte),
    exec (.compl b) s = .next { s with cmpl := 0xFF ^^^ b, phase := .idle, res := .ok, raw := 0x00 }

/-! ### The command framer -/

/-- R110 SENDCMD, with R28 for the answer. -/
def Obligations.SendcmdFramesAndAwaits : Prop :=
  IssuedBy 0x10 (fun b _ => .sendcmd b) ∧
  ∀ (s : State) (c : Byte), ∃ a,
    s.Reads [{ asked := 1, timeout := s.tmo, after := s.txlog.length + 2, answer := a }] ∧
    exec (.sendcmd c) s = .next
      (State.afterAck { s with cmpl := 0xFF ^^^ c, txlog := s.txlog ++ [c, 0xFF ^^^ c] } s.tmo a)

/-- R111 SENDBYTE. -/
def Obligations.SendbyteSendsOneByte : Prop :=
  IssuedBy 0x11 (fun b _ => .sendbyte b) ∧
  ∀ (s : State) (b : Byte),
    exec (.sendbyte b) s = .next
      { s with txlog := s.txlog ++ [b], phase := .idle, res := .ok, raw := 0x00 }

/-- R112 NOP. -/
def Obligations.NopOnlyFinishes : Prop :=
  IssuedBy 0x00 (fun _ _ => .nop) ∧
  ∀ s : State, exec .nop s = .next { s with phase := .idle, res := .ok, raw := 0x00 }

/-! ### Payload assembly -/

/-- R121 CLRBUF. -/
def Obligations.ClrbufEmptiesPayload : Prop :=
  IssuedBy 0x08 (fun _ _ => .clrbuf) ∧
  ∀ s : State, exec .clrbuf s = .next { s with plen := 0, phase := .idle, res := .ok, raw := 0x00 }

/-- R122 PUT8. -/
def Obligations.Put8AppendsByte : Prop :=
  IssuedBy 0x09 (fun b _ => .put8 b) ∧
  (∀ (s : State) (b : Byte), s.plen.toNat + 1 ≤ 131070 → ∃ t, exec (.put8 b) s = .next t ∧
    Stored s.mem t.mem (0x20000 + s.plen.toNat) [b] ∧
    t = { s with mem := t.mem, plen := s.plen + 1, phase := .idle, res := .ok, raw := 0x00 }) ∧
  ∀ (s : State) (b : Byte), 131070 < s.plen.toNat + 1 →
    exec (.put8 b) s = .next { s with phase := .idle, res := .elen, raw := 0x00 }

/-- R123 PUT16BE: the high byte at PBUF[n], the low byte at PBUF[n+1]. -/
def Obligations.Put16beAppendsBigEndian : Prop :=
  IssuedBy 0x0A (fun _ v => .put16be v) ∧
  (∀ (s : State) (v : Half), s.plen.toNat + 2 ≤ 131070 → ∃ t, exec (.put16be v) s = .next t ∧
    Stored s.mem t.mem (0x20000 + s.plen.toNat) [BitVec.ofNat 8 (v.toNat / 0x100), BitVec.ofNat 8 v.toNat] ∧
    t = { s with mem := t.mem, plen := s.plen + 2, phase := .idle, res := .ok, raw := 0x00 }) ∧
  ∀ (s : State) (v : Half), 131070 < s.plen.toNat + 2 →
    exec (.put16be v) s = .next { s with phase := .idle, res := .elen, raw := 0x00 }

/-- R125 PUT32BE. -/
def Obligations.Put32beAppendsAddress : Prop :=
  IssuedBy 0x0B (fun _ _ => .put32be) ∧
  (∀ s : State, s.plen.toNat + 4 ≤ 131070 → ∃ t, exec .put32be s = .next t ∧
    Stored s.mem t.mem (0x20000 + s.plen.toNat)
      [BitVec.ofNat 8 (s.addr.toNat / 0x1000000), BitVec.ofNat 8 (s.addr.toNat / 0x10000),
        BitVec.ofNat 8 (s.addr.toNat / 0x100), BitVec.ofNat 8 s.addr.toNat] ∧
    t = { s with mem := t.mem, plen := s.plen + 4, phase := .idle, res := .ok, raw := 0x00 }) ∧
  ∀ s : State, 131070 < s.plen.toNat + 4 →
    exec .put32be s = .next { s with phase := .idle, res := .elen, raw := 0x00 }

/-- R124: read most significant byte first, the serialized bytes are the value. -/
def Obligations.SerializersAreBigEndian : Prop :=
  (∀ v : Half, ∃ h l, be16 v = [h, l] ∧ v.toNat = h.toNat * 0x100 + l.toNat) ∧
  ∀ a : Word, ∃ b3 b2 b1 b0, be32 a = [b3, b2, b1, b0] ∧
    a.toNat = ((b3.toNat * 0x100 + b2.toNat) * 0x100 + b1.toNat) * 0x100 + b0.toNat

/-! ### DataBlock transmission -/

/-- R127 SENDBLK, with R126 for the lengths. The last clause is the model's choice (log 5): with an unwritten cell the run
is marked and goes on, with what the cells read as in place of the payload. -/
def Obligations.SendblkSendsBlockAndAwaits : Prop :=
  IssuedBy 0x18 (fun _ _ => .sendblk) ∧
  (∀ (s : State) (p : List Byte), 1 ≤ s.plen.toNat → s.plen.toNat ≤ 131070 → s.HoldsPayload p → ∃ a,
    s.Reads [{ asked := 1, timeout := s.tmo, after := s.txlog.length + p.length + 1, answer := a }] ∧
    exec .sendblk s = .next
      (State.afterAck { s with cksum := xorfold p, txlog := s.txlog ++ p ++ [xorfold p] } s.tmo a)) ∧
  (∀ s : State, s.plen.toNat < 1 ∨ 131070 < s.plen.toNat →
    exec .sendblk s = .next { s with phase := .idle, res := .elen, raw := 0x00 }) ∧
  ∀ s : State, s.plen.toNat ≤ 131070 → s.HasUnwritten → ∃ p a, s.MayRead p ∧
    s.Reads [{ asked := 1, timeout := s.tmo, after := s.txlog.length + p.length + 1, answer := a }] ∧
    exec .sendblk s = .next
      (State.afterAck { s.marked with cksum := xorfold p, txlog := s.txlog ++ p ++ [xorfold p] } s.tmo a)

/-- R129 SENDFRAME, with R126 for the lengths. The last clause is the model's choice (log 5): with an unwritten cell the run
is marked and goes on, with what the cells read as in place of the payload. -/
def Obligations.SendframeSendsBlockOnly : Prop :=
  IssuedBy 0x19 (fun _ _ => .sendframe) ∧
  (∀ (s : State) (p : List Byte), 1 ≤ s.plen.toNat → s.plen.toNat ≤ 131070 → s.HoldsPayload p →
    exec .sendframe s = .next
      { s with
        cksum := xorfold p, txlog := s.txlog ++ p ++ [xorfold p], phase := .idle, res := .ok, raw := 0x00 }) ∧
  (∀ s : State, s.plen.toNat < 1 ∨ 131070 < s.plen.toNat →
    exec .sendframe s = .next { s with phase := .idle, res := .elen, raw := 0x00 }) ∧
  ∀ s : State, s.plen.toNat ≤ 131070 → s.HasUnwritten → ∃ p, s.MayRead p ∧
    exec .sendframe s = .next
      { s.marked with
        cksum := xorfold p, txlog := s.txlog ++ p ++ [xorfold p], phase := .idle, res := .ok, raw := 0x00 }

/-- R131 SENDADDR, with R77 for the frame. -/
def Obligations.SendaddrSendsAddressFrame : Prop :=
  IssuedBy 0x1A (fun _ _ => .sendaddr) ∧
  ∀ s : State, ∃ b3 b2 b1 b0 a,
    s.addr.toNat = ((b3.toNat * 0x100 + b2.toNat) * 0x100 + b1.toNat) * 0x100 + b0.toNat ∧
    s.Reads [{ asked := 1, timeout := s.tmo, after := s.txlog.length + 5, answer := a }] ∧
    exec .sendaddr s = .next
      (State.afterAck
        { s with
          cksum := b3 ^^^ b2 ^^^ b1 ^^^ b0
          txlog := s.txlog ++ [b3, b2, b1, b0, b3 ^^^ b2 ^^^ b1 ^^^ b0] } s.tmo a)

/-- R128: the bytes a completed SENDBLK, SENDFRAME or SENDADDR appends to TXLOG fold to 0x00. -/
def Obligations.TransmittedBlockFoldsToZero : Prop :=
  ∀ (s t : State) (i : Instr), i = .sendblk ∨ i = .sendframe ∨ i = .sendaddr → exec i s = .next t → t.res ≠ .elen →
    ∃ block, t.txlog = s.txlog ++ block ∧ 2 ≤ block.length ∧ xorfold block = 0x00

/-- R130: SENDFRAME and then WAITACK leave what SENDBLK leaves. -/
def Obligations.SendframeThenWaitackIsSendblk : Prop :=
  ∀ s u : State, exec .sendframe s = .next u → u.res = .ok → exec .sendblk s = exec .waitack u

/-! ### Acknowledgment detection -/

/-- R151 WAITACK, with R150 for the four results. -/
def Obligations.WaitackClassifiesOneByte : Prop :=
  IssuedBy 0x20 (fun _ _ => .waitack) ∧
  ∀ s : State, ∃ a,
    s.Reads [{ asked := 1, timeout := s.tmo, after := s.txlog.length, answer := a }] ∧
    exec .waitack s = .next (s.afterAck s.tmo a)

/-- R152 WAITACKTOL: `n` reads that time out, then a byte; or eight that time out. -/
def Obligations.WaitacktolAbsorbsTimeouts : Prop :=
  IssuedBy 0x21 (fun _ _ => .waitacktol) ∧
  ∀ s : State, ∃ rs t, exec .waitacktol s = .next t ∧ s.Reads rs ∧
    ((∃ n b, n < 8 ∧
        rs = List.replicate n { asked := 1, timeout := s.tmo, after := s.txlog.length, answer := [] } ++
          [{ asked := 1, timeout := s.tmo, after := s.txlog.length, answer := [b] }] ∧
        t = { s with
          rxlog := s.rxlog ++ rs, rxnext := s.rxnext.drop (n + 1), ato := if n = 0 then s.ato else BitVec.ofNat 4 n
          phase := .idle, res := ackRes [b], raw := b }) ∨
      (rs = List.replicate 8 { asked := 1, timeout := s.tmo, after := s.txlog.length, answer := [] } ∧
        t = { s with
          rxlog := s.rxlog ++ rs, rxnext := s.rxnext.drop 8, ato := 8
          phase := .idle, res := .ok, raw := 0x00 }))

/-- R153 HANDSHAKE, with R154 for the timeout: `ws` are the windows read, one after each INIT byte. -/
def Obligations.HandshakeSynchronisesOnTail : Prop :=
  IssuedBy 0x22 (fun _ _ => .handshake) ∧
  ∀ s : State, ∃ (ws : List (List Byte)) (rs : List RxRead) (t : State), exec .handshake s = .next t ∧ s.Reads rs ∧
    1 ≤ ws.length ∧ ws.length ≤ 5 ∧
    rs = ws.mapIdx (fun j w => { asked := 1024, timeout := 1000, after := s.txlog.length + j + 1, answer := w }) ∧
    (∀ w ∈ ws.dropLast, w.getLast? ≠ some 0x79) ∧
    ∃ w, ws.getLast? = some w ∧
      ((w.getLast? = some 0x79 ∧
          t = { s with
            txlog := s.txlog ++ List.replicate ws.length 0x7F, rxlog := s.rxlog ++ rs
            rxnext := s.rxnext.drop ws.length, att := BitVec.ofNat 4 ws.length
            phase := .idle, res := .ok, raw := 0x79 }) ∨
        (ws.length = 5 ∧ w.getLast? ≠ some 0x79 ∧
          t = { s with
            txlog := s.txlog ++ List.replicate 5 0x7F, rxlog := s.rxlog ++ rs, rxnext := s.rxnext.drop 5, att := 5
            phase := .idle, res := .hsfail, raw := w.getLast?.getD 0x00 }))

/-- R155: a PEER whose first window ends in ACK; a PEER none of whose five windows does. -/
def Obligations.HandshakeFirstWindowOrFailure : Prop :=
  (∀ (s : State) (w : List Byte) (later : List (List Byte)),
    s.rxnext = w :: later → w.length ≤ 1024 → w.getLast? = some 0x79 →
    ∃ t, exec .handshake s = .next t ∧ t.res = .ok ∧ t.att = 1 ∧ t.txlog = s.txlog ++ [0x7F]) ∧
  ∀ (s : State) (ws later : List (List Byte)),
    s.rxnext = ws ++ later → ws.length = 5 → (∀ w ∈ ws, w.length ≤ 1024 ∧ w.getLast? ≠ some 0x79) →
    ∃ t, exec .handshake s = .next t ∧ t.res = .hsfail ∧ t.att = 5 ∧
      t.txlog = s.txlog ++ [0x7F, 0x7F, 0x7F, 0x7F, 0x7F]

/-! ### The response decoder -/

/-- R170 READRESP: no length byte; a short payload; a whole payload and its acknowledgment. -/
def Obligations.ReadrespDecodesResponse : Prop :=
  IssuedBy 0x30 (fun _ _ => .readresp) ∧
  ∀ s : State, ∃ (rs : List RxRead) (t : State),
    s.Reads rs ∧ exec .readresp s = .next t ∧ t.rxlog = s.rxlog ++ rs ∧
    ((rs = [{ asked := 1, timeout := s.tmo, after := s.txlog.length, answer := [] }] ∧
        t = { s with
          rl := 0, rcount := 0, rxlog := t.rxlog, rxnext := s.rxnext.drop 1
          phase := .idle, res := .timeout, raw := 0x00 }) ∨
      (∃ (len : Byte) (p : List Byte), p.length < len.toNat + 1 ∧
        rs = [{ asked := 1, timeout := s.tmo, after := s.txlog.length, answer := [len] },
          { asked := len.toNat + 1, timeout := s.tmo, after := s.txlog.length, answer := p }] ∧
        Stored s.mem t.mem 0x100 p ∧
        t = { s with
          mem := t.mem, rl := len, rcount := BitVec.ofNat 9 p.length, rxlog := t.rxlog, rxnext := s.rxnext.drop 2
          phase := .idle, res := .timeout, raw := 0x00 }) ∨
      ∃ (len : Byte) (p a : List Byte), p.length = len.toNat + 1 ∧
        rs = [{ asked := 1, timeout := s.tmo, after := s.txlog.length, answer := [len] },
          { asked := len.toNat + 1, timeout := s.tmo, after := s.txlog.length, answer := p },
          { asked := 1, timeout := s.tmo, after := s.txlog.length, answer := a }] ∧
        Stored s.mem t.mem 0x100 p ∧
        t = { s with
          mem := t.mem, rl := len, rcount := BitVec.ofNat 9 p.length, rxlog := t.rxlog, rxnext := s.rxnext.drop 3
          phase := .idle, res := ackRes a, raw := a.headD 0x00 })

/-- R171: after READRESP with OK, the response is RBUF[0..RL], in the order received. -/
def Obligations.GoodResponseIsInRbuf : Prop :=
  ∀ s t : State, exec .readresp s = .next t → t.res = .ok →
    t.rcount.toNat = t.rl.toNat + 1 ∧
    ∃ (r1 r2 r3 : RxRead), t.rxlog = s.rxlog ++ [r1, r2, r3] ∧ r2.answer.length = t.rcount.toNat ∧
      r3.answer.length = 1 ∧
      ∀ i, i < t.rcount.toNat → Memory.read t.mem (0x100 + i) = r2.answer[i]?

/-- R172 READRAW. -/
def Obligations.ReadrawReceivesExactly : Prop :=
  IssuedBy 0x31 (fun _ n => .readraw n) ∧
  (∀ (s : State) (n : Half), 1 ≤ n.toNat → n.toNat ≤ 256 → ∃ p t,
    s.Reads [{ asked := n.toNat, timeout := s.tmo, after := s.txlog.length, answer := p }] ∧
    exec (.readraw n) s = .next t ∧ Stored s.mem t.mem 0x100 p ∧
    t = { s with
      mem := t.mem, rl := 0, rcount := BitVec.ofNat 9 p.length
      rxlog := s.rxlog ++ [{ asked := n.toNat, timeout := s.tmo, after := s.txlog.length, answer := p }]
      rxnext := s.rxnext.tail
      phase := .idle, res := if p.length < n.toNat then .short else .ok, raw := 0x00 }) ∧
  ∀ (s : State) (n : Half), n.toNat < 1 ∨ 256 < n.toNat →
    exec (.readraw n) s = .next { s with phase := .idle, res := .elen, raw := 0x00 }

/-! ### The wire patterns -/

/-- R75, R110: a command frame goes out, and is acknowledged, as SENDCMD does it. The model's choice (log 8): that a row
which is only a byte pattern runs as the operation that sends it. -/
def Obligations.CommandFramesRunAsSendcmd : Prop :=
  ∀ (i : Instr) (c k : Byte),
    (i, c, k) ∈ [(Instr.cmdGet, (0x00 : Byte), (0xFF : Byte)), (.cmdGetId, 0x02, 0xFD), (.cmdRead, 0x11, 0xEE),
      (.cmdGo, 0x21, 0xDE), (.cmdWrite, 0x31, 0xCE), (.cmdErase, 0x43, 0xBC), (.cmdEraseExtended, 0x44, 0xBB)] →
    decode (.frame [c, k]) = .ok i ∧
    ∀ s : State, exec i s = exec (.sendcmd c) s ∧ ∃ a,
      s.Reads [{ asked := 1, timeout := s.tmo, after := s.txlog.length + 2, answer := a }] ∧
      exec i s = .next (State.afterAck { s with cmpl := k, txlog := s.txlog ++ [c, k] } s.tmo a)

/-- R74, R78, R84: INIT runs as HANDSHAKE and sends 1 to 5 bytes 0x7F; ACK and NACK are the byte an acknowledgment read is
answered with. The model's choice (log 8). -/
def Obligations.ControlBytesRun : Prop :=
  decode (.frame [0x7F]) = .ok .init ∧ decode (.frame [0x79]) = .ok .ack ∧ decode (.frame [0x1F]) = .ok .nack ∧
  (∀ s : State, exec .init s = exec .handshake s ∧ ∃ t n, exec .init s = .next t ∧
    1 ≤ n ∧ n ≤ 5 ∧ t.txlog = s.txlog ++ List.replicate n 0x7F ∧ t.att = BitVec.ofNat 4 n ∧
    (t.res = .ok ∧ t.raw = 0x79 ∨ n = 5 ∧ t.res = .hsfail ∧ t.raw ≠ 0x79)) ∧
  ∀ s : State,
    exec .ack s = .next
      { s with
        rxlog := s.rxlog ++ [{ asked := 1, timeout := s.tmo, after := s.txlog.length, answer := [0x79] }]
        phase := .idle, res := .ok, raw := 0x79 } ∧
    exec .nack s = .next
      { s with
        rxlog := s.rxlog ++ [{ asked := 1, timeout := s.tmo, after := s.txlog.length, answer := [0x1F] }]
        phase := .idle, res := .nack, raw := 0x1F }

/-- R80, R97, R129: a sentinel frame goes out as CLRBUF, PUT16BE and SENDFRAME. The model's choice (log 8). -/
def Obligations.SentinelFramesRunAsSendframe : Prop :=
  ∀ (i : Instr) (h l x : Byte),
    (i, h, l, x) ∈ [(Instr.sentinelMass, (0xFF : Byte), (0xFF : Byte), (0x00 : Byte)),
      (.sentinelBank1, 0xFF, 0xFE, 0x01), (.sentinelBank2, 0xFF, 0xFD, 0x02)] →
    decode (.frame [h, l, x]) = .ok i ∧
    ∀ s : State, ∃ t, exec i s = .next t ∧ Stored s.mem t.mem 0x20000 [h, l] ∧
      t = { s with
        mem := t.mem, plen := 2, cksum := x, txlog := s.txlog ++ [h, l, x]
        phase := .idle, res := .ok, raw := 0x00 }

/-! ### The HOST's side -/

/-- R24: how STATUS reads while IDLE, field by field, with R25's number of every result. -/
def Obligations.StatusReadLayout : Prop :=
  ∀ (s : State) (rest : List Input), s.phase = .idle → s.inputs = .read 0x04 32 :: rest → ∃ v : Word,
    step s = .next { s with inputs := rest, readlog := s.readlog ++ [(0x04, v)] } ∧
    v.extractLsb' 0 1 = 0 ∧ v.extractLsb' 1 1 = (if s.werr then 1 else 0) ∧ v.extractLsb' 2 2 = 0 ∧
    v.extractLsb' 4 4 = (match s.res with
      | .ok => 0 | .nack => 1 | .unexpected => 2 | .timeout => 3 | .hsfail => 4 | .short => 5 | .elen => 6 | .illegal => 7) ∧
    v.extractLsb' 8 8 = s.raw ∧ v.extractLsb' 16 4 = s.ato ∧ v.extractLsb' 20 4 = s.att ∧ v.extractLsb' 24 8 = 0

/-- R22, R23, R29 to R34, R37, R41: how the other registers and the reserved words read, in either phase. While BUSY, CKSUM,
CMPL and RINFO read as free values (log 4), in their own bits and ranges; that PLEN reads as it was at the issue is the
model's choice (log 1). -/
def Obligations.RegisterReadValues : Prop :=
  ∀ (s : State) (off : Nat) (rest : List Input), s.inputs = .read off 32 :: rest →
    off % 4 = 0 → off ≤ 0xFC → off ≠ 0x04 → ∃ v : Word,
    step s = .next { s with inputs := rest, readlog := s.readlog ++ [(off, v)] } ∧
    (s.phase = .idle ∨ off ∉ [0x10, 0x14, 0x18] → v.toNat =
      (if off = 0x00 then s.opreq.toNat else if off = 0x08 then s.addr.toNat else if off = 0x0C then s.plen.toNat
      else if off = 0x10 then s.cksum.toNat else if off = 0x14 then s.cmpl.toNat
      else if off = 0x18 then s.rcount.toNat * 0x100 + s.rl.toNat else if off = 0x1C then s.tmo.toNat else 0)) ∧
    (off = 0x10 ∨ off = 0x14 → v.toNat < 0x100) ∧ (off = 0x18 → s.phase ≠ .idle → v.toNat / 0x100 ≤ 256)

/-- R35, R36, R37, R41, R202: how a buffer byte reads, in either phase. While BUSY a written cell of RBUF reads as a free
value (log 4); that a cell of PBUF reads as it was at the issue is the model's choice (log 1). An unwritten cell marks the
run and reads as a free value: the model's choice (log 5). -/
def Obligations.BufferReadValues : Prop :=
  ∀ (s : State) (off : Nat) (rest : List Input), s.inputs = .read off 8 :: rest →
    (((0x100 ≤ off ∧ off ≤ 0x1FF) ∨ (0x20000 ≤ off ∧ off ≤ 0x3FFFD)) →
      (∀ b, Memory.read s.mem off = some b → ∃ c : Byte,
        step s = .next { s with inputs := rest, readlog := s.readlog ++ [(off, BitVec.ofNat 32 c.toNat)] } ∧
        (s.phase = .idle ∨ 0x20000 ≤ off → c = b)) ∧
      (Memory.read s.mem off = none → ∃ c : Byte,
        step s = .next
          { s.marked with inputs := rest, readlog := s.readlog ++ [(off, BitVec.ofNat 32 c.toNat)] })) ∧
    (off = 0x3FFFE ∨ off = 0x3FFFF →
      step s = .next { s with inputs := rest, readlog := s.readlog ++ [(off, 0)] })

/-- R24, R25, R38, R240: while BUSY, a STATUS read shows BUSY and WERR and the last finished result; ATO and ATT as the issue
left them, except that ATO may be 0..8 while WAITACKTOL runs and ATT 0..5 while HANDSHAKE (or INIT, log 8) runs (log 4). -/
def Obligations.StatusReadWhileBusy : Prop :=
  ∀ (s : State) (r : Request) (rest : List Input), s.phase = .busy r → s.inputs = .read 0x04 32 :: rest → ∃ v : Word,
    step s = .next { s with inputs := rest, readlog := s.readlog ++ [(0x04, v)] } ∧
    v.extractLsb' 0 1 = 1 ∧ v.extractLsb' 1 1 = (if s.werr then 1 else 0) ∧ v.extractLsb' 2 2 = 0 ∧
    v.extractLsb' 4 4 = (match s.res with
      | .ok => 0 | .nack => 1 | .unexpected => 2 | .timeout => 3 | .hsfail => 4 | .short => 5 | .elen => 6 | .illegal => 7) ∧
    v.extractLsb' 8 8 = s.raw ∧ v.extractLsb' 24 8 = 0 ∧
    (decode r ≠ .ok .waitacktol → v.extractLsb' 16 4 = s.ato) ∧
    (decode r = .ok .waitacktol → (v.extractLsb' 16 4).toNat ≤ 8) ∧
    (decode r ≠ .ok .handshake → decode r ≠ .ok .init → v.extractLsb' 20 4 = s.att) ∧
    (decode r = .ok .handshake ∨ decode r = .ok .init → (v.extractLsb' 20 4).toNat ≤ 5)

/-- R54: a read changes nothing but the record of what was read and, where it meets an unwritten cell of a buffer, the fault
mark (R202, log 5), in either phase. -/
def Obligations.ReadsHaveNoSideEffect : Prop :=
  ∀ (s t : State) (off bits : Nat) (rest : List Input), s.inputs = .read off bits :: rest → step s = .next t →
    ∃ v, t = { s with inputs := rest, readlog := s.readlog ++ [(off, v)] } ∨
      bits = 8 ∧ off ≤ 0x3FFFD ∧ Memory.read s.mem off = none ∧
        t = { s.marked with inputs := rest, readlog := s.readlog ++ [(off, v)] }

/-- R29, R30, R34, R35, R37, R41: what a write while IDLE stores. A write to STATUS, CKSUM, CMPL, RINFO or RBUF changes
nothing: the model's choice (log 7). -/
def Obligations.IdleWritesStore : Prop :=
  ∀ (s : State) (off bits : Nat) (v : Word) (rest : List Input), s.phase = .idle → s.inputs = .write off bits v :: rest →
    Admitted off bits → off ≠ 0x00 → ∃ t, step s = .next t ∧
      (∀ a, Memory.read t.mem a =
        if bits = 8 ∧ a = off ∧ 0x20000 ≤ off ∧ off ≤ 0x3FFFD then some (BitVec.ofNat 8 v.toNat)
        else Memory.read s.mem a) ∧
      t = { s with
        inputs := rest, mem := t.mem
        addr := if off = 0x08 then v else s.addr
        plen := if off = 0x0C then BitVec.ofNat 17 v.toNat else s.plen
        tmo := if off = 0x1C then v else s.tmo }

/-- R41: while BUSY every admitted write is dropped and marks WERR, whatever it names (OPREQ, ADDR, PLEN, TMO, PBUF, a
reserved offset); R53: the others have no step. -/
def Obligations.BusyWritesAreDropped : Prop :=
  ∀ (s : State) (r : Request) (off bits : Nat) (v : Word) (rest : List Input), s.phase = .busy r →
    s.inputs = .write off bits v :: rest → Admitted off bits →
    step s = .next { s with werr := true, inputs := rest }

/-- R52, R53: a HOST access has no step exactly when it is not admitted; the stuck HOST is a named fault (log 6). -/
def Obligations.OnlyAdmittedAccessesStep : Prop :=
  ∀ (s : State) (off bits : Nat) (v : Word) (rest : List Input),
    (s.inputs = .write off bits v :: rest → (step s = .fault (.notAdmitted off bits) ↔ ¬ Admitted off bits)) ∧
    (s.inputs = .read off bits :: rest → (step s = .fault (.notAdmitted off bits) ↔ ¬ Admitted off bits))

/-! ### The whole machine -/

/-- The invariant of Safety.lean (R24, R25, R33, R35, R36, R38, R201, R202) is kept by every step, from every state that
meets it. Its clause that ATO and ATT are 0 all the while BUSY is the model's choice (log 1): R152 and R153 write them while
the operation is still BUSY, and here an operation is one step. Its clause on the fault mark rests on log 5. -/
def Obligations.StepKeepsInvariant : Prop := ∀ s t : State, s.Inv → step s = .next t → t.Inv

/-- The invariant holds after reset, whatever the outside world holds. -/
def Obligations.ResetMeetsInvariant : Prop :=
  ∀ (rx : List (List Byte)) (p : Nat) (xs : List Input) (l : List (Nat × Word)),
    State.Inv { State.reset with rxnext := rx, peer := p, inputs := xs, readlog := l }

/-- R240, R41: a HOST that waits for every operation before its next write stays such a HOST, and no write of it is ever
dropped. -/
def Obligations.PollingHostDropsNoWrite : Prop :=
  ∀ s t : State, s.Disciplined → step s = .next t → t.Disciplined ∧ (t.werr = true → s.werr = true)

/-- R24, R38, R41: WERR is set only by a write dropped while BUSY, and only a reset clears it. -/
def Obligations.WerrSetOnlyByDroppedWrite : Prop :=
  ∀ s t : State, step s = .next t →
    (s.werr = false → t.werr = true → s.isBusy = true ∧ ∃ off bits v rest, s.inputs = .write off bits v :: rest) ∧
    (s.werr = true → t.werr = false → ∃ rest, s.inputs = .reset :: rest)

/-- R202, R248: no step clears the fault mark, a reset neither (log 5); and what sets it is a HOST read of an unwritten cell,
or CKXOR, SENDBLK or SENDFRAME over a payload with one. That an operation abandoned by a reset never sets it is the model's
choice (log 19). -/
def Obligations.FaultMarkIsNeverCleared : Prop :=
  ∀ s t : State, step s = .next t →
    (s.faultMark = true → t.faultMark = true) ∧
    (s.faultMark = false → t.faultMark = true →
      (∃ off rest, s.inputs = .read off 8 :: rest ∧ Memory.read s.mem off = none) ∨
      s.HasUnwritten ∧ ∃ r i, s.phase = .busy r ∧ decode r = .ok i ∧ i ∈ [.ckxor, .sendblk, .sendframe])

/-- R39, R70, R215: an operation starts only by an OPREQ write while IDLE, which latches its word; and what is latched does
not change while BUSY. -/
def Obligations.OnlyOpreqWriteStartsOperation : Prop :=
  ∀ (s t : State) (r : Request), step s = .next t → t.phase = .busy r →
    (s.phase = .idle → ∃ w rest, s.inputs = .write 0x00 32 w :: rest ∧ r = .opreq w ∧ t.opreq = w) ∧
    ∀ q, s.phase = .busy q → r = q

/-- R27: no step but a reset takes a byte from TXLOG. -/
def Obligations.TxlogOnlyGrows : Prop :=
  ∀ s t : State, step s = .next t → (∀ rest, s.inputs ≠ .reset :: rest) → ∃ sent, t.txlog = s.txlog ++ sent

/-- R29, R34, R38, R200: no operation changes ADDR, TMO, OPREQ or WERR, or what is outside the block; each ends IDLE.
The wire patterns as log 8 has them. -/
def Obligations.OperationsKeepHostRegisters : Prop :=
  ∀ (i : Instr) (s t : State), exec i s = .next t →
    t.phase = .idle ∧ t.addr = s.addr ∧ t.tmo = s.tmo ∧ t.opreq = s.opreq ∧ t.werr = s.werr ∧ t.inputs = s.inputs ∧
      t.readlog = s.readlog ∧ t.peer = s.peer

/-- R204: an operation that ends with a result other than OK leaves PBUF, PLEN, ADDR and TMO as they were, and takes back
no byte sent and no answer received. The wire patterns as log 8 has them. -/
def Obligations.FailingOperationKeepsOperands : Prop :=
  ∀ (i : Instr) (s t : State), exec i s = .next t → t.res ≠ .ok →
    t.plen = s.plen ∧ t.addr = s.addr ∧ t.tmo = s.tmo ∧
      (∀ a, 0x20000 ≤ a → Memory.read t.mem a = Memory.read s.mem a) ∧
      (∃ sent, t.txlog = s.txlog ++ sent) ∧ ∃ heard, t.rxlog = s.rxlog ++ heard

/-- R201, R203: an operation that ends with ELEN has no other effect. The wire patterns as log 8 has them. -/
def Obligations.ElenHasNoOtherEffect : Prop :=
  ∀ (i : Instr) (s t : State), exec i s = .next t → t.res = .elen →
    t = { s with phase := .idle, res := .elen, raw := 0x00 }

/-- R201: which operation can have which result. A wire pattern has those of its operation (log 8). -/
def Obligations.ResultsPerOperation : Prop :=
  ∀ (i : Instr) (s t : State), exec i s = .next t → t.res ∈ mayProduce i

/-- R28: an operation has a next step whatever the oracle answers; and outside HANDSHAKE what it sends, and what it leaves
in PLEN, CKSUM, CMPL and PBUF, does not depend on the answers (R58). The wire patterns as log 8 has them. -/
def Obligations.NextNeverDependsOnPeer : Prop :=
  (∀ (i : Instr) (s : State) (rx : List (List Byte)) (p : Nat) (heard : List RxRead),
    ∃ t, exec i { s with rxnext := rx, peer := p, rxlog := heard } = .next t) ∧
  ∀ (i : Instr) (s t u : State) (rx : List (List Byte)) (p : Nat) (heard : List RxRead),
    i ≠ .handshake → i ≠ .init → exec i s = .next t →
    exec i { s with rxnext := rx, peer := p, rxlog := heard } = .next u →
      u.txlog = t.txlog ∧ u.plen = t.plen ∧ u.cksum = t.cksum ∧ u.cmpl = t.cmpl ∧ u.faultMark = t.faultMark ∧
        ∀ a, 0x20000 ≤ a → Memory.read u.mem a = Memory.read t.mem a

/-- R206: outside WAITACKTOL and HANDSHAKE, an operation that ends with OK had every read answered in full. The wire
patterns as log 8 has them. -/
def Obligations.OtherTimeoutsAreFatal : Prop :=
  ∀ (i : Instr) (s t : State), absorbsTimeouts i = false → exec i s = .next t → t.res = .ok →
    ∃ heard, t.rxlog = s.rxlog ++ heard ∧ ∀ r ∈ heard, r.answer.length = r.asked

/-- R58: outside HANDSHAKE, every byte an operation sends is sent before its first read. The wire patterns as log 8 has
them. -/
def Obligations.TransmissionPrecedesReception : Prop :=
  ∀ (i : Instr) (s t : State), i ≠ .handshake → i ≠ .init → exec i s = .next t →
    ∃ heard, t.rxlog = s.rxlog ++ heard ∧ ∀ r ∈ heard, r.after = t.txlog.length

/-- R154, R34: HANDSHAKE's reads use 1000 ms and leave TMO; every other operation's reads use TMO. The
wire patterns as log 8 has them. -/
def Obligations.ReadTimeouts : Prop :=
  ∀ (i : Instr) (s t : State), exec i s = .next t → t.tmo = s.tmo ∧
    ∃ heard, t.rxlog = s.rxlog ++ heard ∧
      ∀ r ∈ heard, r.timeout = if i = .handshake ∨ i = .init then 1000 else s.tmo

/-- R31, R32, R33, R36: which operations write CKSUM, CMPL, RINFO and RBUF. The wire patterns as log 8 has them. -/
def Obligations.DataRegisterWriters : Prop :=
  ∀ (i : Instr) (s t : State), exec i s = .next t →
    (i ∉ [.ckxor, .sendblk, .sendframe, .sendaddr, .sentinelMass, .sentinelBank1, .sentinelBank2] → t.cksum = s.cksum) ∧
    ((∀ b, i ≠ .compl b ∧ i ≠ .sendcmd b) →
      i ∉ [.cmdGet, .cmdGetId, .cmdRead, .cmdGo, .cmdWrite, .cmdErase, .cmdEraseExtended] → t.cmpl = s.cmpl) ∧
    ((∀ n, i ≠ .readraw n) → i ≠ .readresp →
      t.rl = s.rl ∧ t.rcount = s.rcount ∧ ∀ a, a < 0x20000 → Memory.read t.mem a = Memory.read s.mem a)
end

