-- ==== Sys2Proof/Laws/Config.lean ====
section
/-! SUPPORT. The parameters' values (R6, R74), so that no proof unfolds the structure that holds them, and the widths that
go with them. -/

namespace Sys2Proof.Config

@[simp] theorem widths_byteBits : widths.byteBits = 8 := rfl
@[simp] theorem widths_plenW : widths.plenW = 17 := rfl
@[simp] theorem widths_addrW : widths.addrW = 32 := rfl
@[simp] theorem params_ack : params.ack = 0x79 := rfl
@[simp] theorem params_nack : params.nack = 0x1F := rfl
@[simp] theorem params_initByte : params.initByte = 0x7F := rfl
@[simp] theorem params_block : params.block = 256 := rfl
@[simp] theorem params_hsAttempts : params.hsAttempts = 5 := rfl
@[simp] theorem params_hsWindow : params.hsWindow = 1024 := rfl
@[simp] theorem params_hsTmoMs : params.hsTmoMs = 1000 := rfl
@[simp] theorem params_tolReads : params.tolReads = 8 := rfl
@[simp] theorem params_tmoResetMs : params.tmoResetMs = 2000 := rfl
@[simp] theorem params_pMax : params.pMax = 131070 := rfl
@[simp] theorem params_rbufSize : params.rbufSize = 256 := rfl
@[simp] theorem params_get : params.get = 0x00 := rfl
@[simp] theorem params_getId : params.getId = 0x02 := rfl
@[simp] theorem params_read : params.read = 0x11 := rfl
@[simp] theorem params_go : params.go = 0x21 := rfl
@[simp] theorem params_write : params.write = 0x31 := rfl
@[simp] theorem params_erase : params.erase = 0x43 := rfl
@[simp] theorem params_eraseExtended : params.eraseExtended = 0x44 := rfl
@[simp] theorem params_sentinelMass : params.sentinelMass = 0xFFFF := rfl
@[simp] theorem params_sentinelBank1 : params.sentinelBank1 = 0xFFFE := rfl
@[simp] theorem params_sentinelBank2 : params.sentinelBank2 = 0xFFFD := rfl

/-- R6: PLEN_W is the smallest width that holds every length up to P_MAX. -/
theorem plenW_least : params.pMax < 2 ^ widths.plenW ∧ 2 ^ (widths.plenW - 1) ≤ params.pMax := by decide

/-- R6: RBUF holds the longest response, BLOCK bytes. -/
theorem rbufSize_is_block : params.rbufSize = params.block := rfl

/-- R55: whatever BASE is, two offsets are two bus addresses. -/
theorem busAddress_injective {a b : Nat} (h : busAddress a = busAddress b) : a = b :=
  Nat.add_left_cancel h

end Sys2Proof.Config

namespace Sys2Proof

/-- The range of a byte, in numerals. -/
theorem byte_toNat_lt (b : Byte) : b.toNat < 0x100 := b.isLt

/-- The range of PLEN, in numerals. -/
theorem length_toNat_lt (n : Length) : n.toNat < 0x20000 := n.isLt

/-- The range of ADDR, in numerals. -/
theorem address_toNat_lt (a : Address) : a.toNat < 0x100000000 := a.isLt

end Sys2Proof
end

