-- ==== Sys2Proof/Laws/Decode.lean ====
section
/-! SUPPORT. The fields of a request word (R70, R71), the serializers in arithmetic (R124), and which requests decode. -/

namespace Sys2Proof

open Sys2Proof.Machine

/-- R70, R85: the bits of a word put together from its fields. -/
theorem getLsbD_requestWord (a : Half) (b c : Byte) (i : Nat) :
    (requestWord a b c).getLsbD i =
      if i < 8 then c.getLsbD i else if i - 8 < 8 then b.getLsbD (i - 8) else a.getLsbD (i - 8 - 8) := by
  have h1 : (requestWord a b c).getLsbD i = if i < 8 then c.getLsbD i else (a ++ b).getLsbD (i - 8) :=
    BitVec.getLsbD_append (x := a ++ b) (y := c)
  rw [h1, BitVec.getLsbD_append]

/-- R70: OPC of a word put together from its fields. -/
@[simp] theorem opcOf_requestWord (a : Half) (b c : Byte) : opcOf (requestWord a b c) = c := by
  apply BitVec.eq_of_getLsbD_eq
  intro i hi
  rw [opcOf, BitVec.getLsbD_extractLsb', getLsbD_requestWord]
  simp [hi]

/-- R70: IMM8 of a word put together from its fields. -/
@[simp] theorem imm8Of_requestWord (a : Half) (b c : Byte) : imm8Of (requestWord a b c) = b := by
  apply BitVec.eq_of_getLsbD_eq
  intro i hi
  rw [imm8Of, BitVec.getLsbD_extractLsb', getLsbD_requestWord]
  have h1 : ¬ 8 + i < 8 := by omega
  have h2 : 8 + i - 8 = i := by omega
  simp [hi, h2]

/-- R70: IMM16 of a word put together from its fields. -/
@[simp] theorem imm16Of_requestWord (a : Half) (b c : Byte) : imm16Of (requestWord a b c) = a := by
  apply BitVec.eq_of_getLsbD_eq
  intro i hi
  rw [imm16Of, BitVec.getLsbD_extractLsb', getLsbD_requestWord]
  have h1 : ¬ 16 + i < 8 := by omega
  have h2 : ¬ 16 + i - 8 < 8 := by omega
  have h3 : 16 + i - 8 - 8 = i := by omega
  simp only [hi, h1, h2, h3, decide_true, Bool.true_and, if_false]

/-- R124: the two bytes of a 16-bit value in arithmetic. -/
theorem be16_eq (v : Half) : be16 v = [BitVec.ofNat 8 (v.toNat / 0x100), BitVec.ofNat 8 v.toNat] := by
  simp only [be16, List.cons.injEq, and_true]
  constructor <;> (apply BitVec.eq_of_toNat_eq; simp [BitVec.extractLsb'_toNat, Nat.shiftRight_eq_div_pow])

/-- R124: the four bytes of a 32-bit value in arithmetic. -/
theorem be32_eq (a : Word) : be32 a =
    [BitVec.ofNat 8 (a.toNat / 0x1000000), BitVec.ofNat 8 (a.toNat / 0x10000), BitVec.ofNat 8 (a.toNat / 0x100),
      BitVec.ofNat 8 a.toNat] := by
  simp only [be32, List.cons.injEq, and_true]
  refine ⟨?_, ?_, ?_, ?_⟩ <;>
    (apply BitVec.eq_of_toNat_eq; simp [BitVec.extractLsb'_toNat, Nat.shiftRight_eq_div_pow])

/-- R72: no two rows of the OPC map share a code. -/
theorem opcodeRows_distinct (b : Byte) (h : Half) : ((opcodeRows b h).map Prod.fst).Nodup := by
  simp only [opcodeRows, List.map_cons, List.map_nil]
  decide

/-- No two wire patterns are the same bytes. -/
theorem frameRows_distinct : (frameRows.map Prod.fst).Nodup := by decide

/-- A word that decodes is a row of the OPC map. -/
theorem decodeOpreq_ok {w : Word} {i : Instr} (h : decodeOpreq w = .ok i) :
    (opcOf w, i) ∈ opcodeRows (imm8Of w) (imm16Of w) := by
  unfold decodeOpreq at h
  split at h
  · next j hj =>
    cases h
    obtain ⟨l1, l2, hl, _⟩ := List.lookup_eq_some_iff.1 hj
    rw [hl]
    simp
  · cases h

/-- A word that is rejected is rejected for its operation code (R73), which no row of the OPC map has. -/
theorem decodeOpreq_error {w : Word} {r : Reject} (h : decodeOpreq w = .error r) :
    r = .unassignedOpc (opcOf w) ∧ ∀ p ∈ opcodeRows (imm8Of w) (imm16Of w), opcOf w ≠ p.1 := by
  unfold decodeOpreq at h
  split at h
  · cases h
  · next hn =>
    cases h
    exact ⟨rfl, fun p hp => by simpa using List.lookup_eq_none_iff.1 hn p hp⟩

end Sys2Proof
end

