-- ==== Sys2Proof/Laws/State.lean ====
section
/-! SUPPORT. What each named update of the state does to each field, so that no proof unfolds a record update. -/

namespace Sys2Proof.Machine

variable (s : State)

/-! ### State.finish -/

@[simp] theorem State.finish_phase (r : Res) (b : Byte) : (s.finish r b).phase = .idle := rfl
@[simp] theorem State.finish_opreq (r : Res) (b : Byte) : (s.finish r b).opreq = s.opreq := rfl
@[simp] theorem State.finish_werr (r : Res) (b : Byte) : (s.finish r b).werr = s.werr := rfl
@[simp] theorem State.finish_res (r : Res) (b : Byte) : (s.finish r b).res = r := rfl
@[simp] theorem State.finish_raw (r : Res) (b : Byte) : (s.finish r b).raw = b := rfl
@[simp] theorem State.finish_ato (r : Res) (b : Byte) : (s.finish r b).ato = s.ato := rfl
@[simp] theorem State.finish_att (r : Res) (b : Byte) : (s.finish r b).att = s.att := rfl
@[simp] theorem State.finish_addr (r : Res) (b : Byte) : (s.finish r b).addr = s.addr := rfl
@[simp] theorem State.finish_plen (r : Res) (b : Byte) : (s.finish r b).plen = s.plen := rfl
@[simp] theorem State.finish_cksum (r : Res) (b : Byte) : (s.finish r b).cksum = s.cksum := rfl
@[simp] theorem State.finish_cmpl (r : Res) (b : Byte) : (s.finish r b).cmpl = s.cmpl := rfl
@[simp] theorem State.finish_rl (r : Res) (b : Byte) : (s.finish r b).rl = s.rl := rfl
@[simp] theorem State.finish_rcount (r : Res) (b : Byte) : (s.finish r b).rcount = s.rcount := rfl
@[simp] theorem State.finish_tmo (r : Res) (b : Byte) : (s.finish r b).tmo = s.tmo := rfl
@[simp] theorem State.finish_mem (r : Res) (b : Byte) : (s.finish r b).mem = s.mem := rfl
@[simp] theorem State.finish_txlog (r : Res) (b : Byte) : (s.finish r b).txlog = s.txlog := rfl
@[simp] theorem State.finish_rxlog (r : Res) (b : Byte) : (s.finish r b).rxlog = s.rxlog := rfl
@[simp] theorem State.finish_rxnext (r : Res) (b : Byte) : (s.finish r b).rxnext = s.rxnext := rfl
@[simp] theorem State.finish_peer (r : Res) (b : Byte) : (s.finish r b).peer = s.peer := rfl
@[simp] theorem State.finish_faultMark (r : Res) (b : Byte) : (s.finish r b).faultMark = s.faultMark := rfl
@[simp] theorem State.finish_unwrittenReads (r : Res) (b : Byte) : (s.finish r b).unwrittenReads = s.unwrittenReads := rfl
@[simp] theorem State.finish_inputs (r : Res) (b : Byte) : (s.finish r b).inputs = s.inputs := rfl
@[simp] theorem State.finish_readlog (r : Res) (b : Byte) : (s.finish r b).readlog = s.readlog := rfl

/-! ### State.transmit -/

@[simp] theorem State.transmit_phase (bs : List Byte) : (s.transmit bs).phase = s.phase := rfl
@[simp] theorem State.transmit_opreq (bs : List Byte) : (s.transmit bs).opreq = s.opreq := rfl
@[simp] theorem State.transmit_werr (bs : List Byte) : (s.transmit bs).werr = s.werr := rfl
@[simp] theorem State.transmit_res (bs : List Byte) : (s.transmit bs).res = s.res := rfl
@[simp] theorem State.transmit_raw (bs : List Byte) : (s.transmit bs).raw = s.raw := rfl
@[simp] theorem State.transmit_ato (bs : List Byte) : (s.transmit bs).ato = s.ato := rfl
@[simp] theorem State.transmit_att (bs : List Byte) : (s.transmit bs).att = s.att := rfl
@[simp] theorem State.transmit_addr (bs : List Byte) : (s.transmit bs).addr = s.addr := rfl
@[simp] theorem State.transmit_plen (bs : List Byte) : (s.transmit bs).plen = s.plen := rfl
@[simp] theorem State.transmit_cksum (bs : List Byte) : (s.transmit bs).cksum = s.cksum := rfl
@[simp] theorem State.transmit_cmpl (bs : List Byte) : (s.transmit bs).cmpl = s.cmpl := rfl
@[simp] theorem State.transmit_rl (bs : List Byte) : (s.transmit bs).rl = s.rl := rfl
@[simp] theorem State.transmit_rcount (bs : List Byte) : (s.transmit bs).rcount = s.rcount := rfl
@[simp] theorem State.transmit_tmo (bs : List Byte) : (s.transmit bs).tmo = s.tmo := rfl
@[simp] theorem State.transmit_mem (bs : List Byte) : (s.transmit bs).mem = s.mem := rfl
@[simp] theorem State.transmit_txlog (bs : List Byte) : (s.transmit bs).txlog = s.txlog ++ bs := rfl
@[simp] theorem State.transmit_rxlog (bs : List Byte) : (s.transmit bs).rxlog = s.rxlog := rfl
@[simp] theorem State.transmit_rxnext (bs : List Byte) : (s.transmit bs).rxnext = s.rxnext := rfl
@[simp] theorem State.transmit_peer (bs : List Byte) : (s.transmit bs).peer = s.peer := rfl
@[simp] theorem State.transmit_faultMark (bs : List Byte) : (s.transmit bs).faultMark = s.faultMark := rfl
@[simp] theorem State.transmit_unwrittenReads (bs : List Byte) : (s.transmit bs).unwrittenReads = s.unwrittenReads := rfl
@[simp] theorem State.transmit_inputs (bs : List Byte) : (s.transmit bs).inputs = s.inputs := rfl
@[simp] theorem State.transmit_readlog (bs : List Byte) : (s.transmit bs).readlog = s.readlog := rfl

/-! ### State.received -/

@[simp] theorem State.received_phase (k : Nat) (t : Word) : (s.received k t).phase = s.phase := rfl
@[simp] theorem State.received_opreq (k : Nat) (t : Word) : (s.received k t).opreq = s.opreq := rfl
@[simp] theorem State.received_werr (k : Nat) (t : Word) : (s.received k t).werr = s.werr := rfl
@[simp] theorem State.received_res (k : Nat) (t : Word) : (s.received k t).res = s.res := rfl
@[simp] theorem State.received_raw (k : Nat) (t : Word) : (s.received k t).raw = s.raw := rfl
@[simp] theorem State.received_ato (k : Nat) (t : Word) : (s.received k t).ato = s.ato := rfl
@[simp] theorem State.received_att (k : Nat) (t : Word) : (s.received k t).att = s.att := rfl
@[simp] theorem State.received_addr (k : Nat) (t : Word) : (s.received k t).addr = s.addr := rfl
@[simp] theorem State.received_plen (k : Nat) (t : Word) : (s.received k t).plen = s.plen := rfl
@[simp] theorem State.received_cksum (k : Nat) (t : Word) : (s.received k t).cksum = s.cksum := rfl
@[simp] theorem State.received_cmpl (k : Nat) (t : Word) : (s.received k t).cmpl = s.cmpl := rfl
@[simp] theorem State.received_rl (k : Nat) (t : Word) : (s.received k t).rl = s.rl := rfl
@[simp] theorem State.received_rcount (k : Nat) (t : Word) : (s.received k t).rcount = s.rcount := rfl
@[simp] theorem State.received_tmo (k : Nat) (t : Word) : (s.received k t).tmo = s.tmo := rfl
@[simp] theorem State.received_mem (k : Nat) (t : Word) : (s.received k t).mem = s.mem := rfl
@[simp] theorem State.received_txlog (k : Nat) (t : Word) : (s.received k t).txlog = s.txlog := rfl
@[simp] theorem State.received_rxlog (k : Nat) (t : Word) : (s.received k t).rxlog = s.rxlog ++ [⟨k, t, s.txlog.length, s.answer k t⟩] := rfl
@[simp] theorem State.received_rxnext (k : Nat) (t : Word) : (s.received k t).rxnext = s.rxnext.tail := rfl
@[simp] theorem State.received_peer (k : Nat) (t : Word) : (s.received k t).peer = s.peer := rfl
@[simp] theorem State.received_faultMark (k : Nat) (t : Word) : (s.received k t).faultMark = s.faultMark := rfl
@[simp] theorem State.received_unwrittenReads (k : Nat) (t : Word) : (s.received k t).unwrittenReads = s.unwrittenReads := rfl
@[simp] theorem State.received_inputs (k : Nat) (t : Word) : (s.received k t).inputs = s.inputs := rfl
@[simp] theorem State.received_readlog (k : Nat) (t : Word) : (s.received k t).readlog = s.readlog := rfl

/-! ### State.accept -/

@[simp] theorem State.accept_phase (r : Request) : (s.accept r).phase = .busy r := rfl
@[simp] theorem State.accept_opreq (r : Request) : (s.accept r).opreq = carrierWord r := rfl
@[simp] theorem State.accept_werr (r : Request) : (s.accept r).werr = s.werr := rfl
@[simp] theorem State.accept_res (r : Request) : (s.accept r).res = s.res := rfl
@[simp] theorem State.accept_raw (r : Request) : (s.accept r).raw = s.raw := rfl
@[simp] theorem State.accept_ato (r : Request) : (s.accept r).ato = 0 := rfl
@[simp] theorem State.accept_att (r : Request) : (s.accept r).att = 0 := rfl
@[simp] theorem State.accept_addr (r : Request) : (s.accept r).addr = s.addr := rfl
@[simp] theorem State.accept_plen (r : Request) : (s.accept r).plen = s.plen := rfl
@[simp] theorem State.accept_cksum (r : Request) : (s.accept r).cksum = s.cksum := rfl
@[simp] theorem State.accept_cmpl (r : Request) : (s.accept r).cmpl = s.cmpl := rfl
@[simp] theorem State.accept_rl (r : Request) : (s.accept r).rl = s.rl := rfl
@[simp] theorem State.accept_rcount (r : Request) : (s.accept r).rcount = s.rcount := rfl
@[simp] theorem State.accept_tmo (r : Request) : (s.accept r).tmo = s.tmo := rfl
@[simp] theorem State.accept_mem (r : Request) : (s.accept r).mem = s.mem := rfl
@[simp] theorem State.accept_txlog (r : Request) : (s.accept r).txlog = s.txlog := rfl
@[simp] theorem State.accept_rxlog (r : Request) : (s.accept r).rxlog = s.rxlog := rfl
@[simp] theorem State.accept_rxnext (r : Request) : (s.accept r).rxnext = s.rxnext := rfl
@[simp] theorem State.accept_peer (r : Request) : (s.accept r).peer = s.peer := rfl
@[simp] theorem State.accept_faultMark (r : Request) : (s.accept r).faultMark = s.faultMark := rfl
@[simp] theorem State.accept_unwrittenReads (r : Request) : (s.accept r).unwrittenReads = s.unwrittenReads := rfl
@[simp] theorem State.accept_inputs (r : Request) : (s.accept r).inputs = s.inputs := rfl
@[simp] theorem State.accept_readlog (r : Request) : (s.accept r).readlog = s.readlog := rfl

/-! ### State.peerSends -/

@[simp] theorem State.peerSends_phase (bs : List Byte) : (s.peerSends bs).phase = s.phase := rfl
@[simp] theorem State.peerSends_opreq (bs : List Byte) : (s.peerSends bs).opreq = s.opreq := rfl
@[simp] theorem State.peerSends_werr (bs : List Byte) : (s.peerSends bs).werr = s.werr := rfl
@[simp] theorem State.peerSends_res (bs : List Byte) : (s.peerSends bs).res = s.res := rfl
@[simp] theorem State.peerSends_raw (bs : List Byte) : (s.peerSends bs).raw = s.raw := rfl
@[simp] theorem State.peerSends_ato (bs : List Byte) : (s.peerSends bs).ato = s.ato := rfl
@[simp] theorem State.peerSends_att (bs : List Byte) : (s.peerSends bs).att = s.att := rfl
@[simp] theorem State.peerSends_addr (bs : List Byte) : (s.peerSends bs).addr = s.addr := rfl
@[simp] theorem State.peerSends_plen (bs : List Byte) : (s.peerSends bs).plen = s.plen := rfl
@[simp] theorem State.peerSends_cksum (bs : List Byte) : (s.peerSends bs).cksum = s.cksum := rfl
@[simp] theorem State.peerSends_cmpl (bs : List Byte) : (s.peerSends bs).cmpl = s.cmpl := rfl
@[simp] theorem State.peerSends_rl (bs : List Byte) : (s.peerSends bs).rl = s.rl := rfl
@[simp] theorem State.peerSends_rcount (bs : List Byte) : (s.peerSends bs).rcount = s.rcount := rfl
@[simp] theorem State.peerSends_tmo (bs : List Byte) : (s.peerSends bs).tmo = s.tmo := rfl
@[simp] theorem State.peerSends_mem (bs : List Byte) : (s.peerSends bs).mem = s.mem := rfl
@[simp] theorem State.peerSends_txlog (bs : List Byte) : (s.peerSends bs).txlog = s.txlog := rfl
@[simp] theorem State.peerSends_rxlog (bs : List Byte) : (s.peerSends bs).rxlog = s.rxlog := rfl
@[simp] theorem State.peerSends_rxnext (bs : List Byte) : (s.peerSends bs).rxnext = bs :: s.rxnext := rfl
@[simp] theorem State.peerSends_peer (bs : List Byte) : (s.peerSends bs).peer = s.peer := rfl
@[simp] theorem State.peerSends_faultMark (bs : List Byte) : (s.peerSends bs).faultMark = s.faultMark := rfl
@[simp] theorem State.peerSends_unwrittenReads (bs : List Byte) : (s.peerSends bs).unwrittenReads = s.unwrittenReads := rfl
@[simp] theorem State.peerSends_inputs (bs : List Byte) : (s.peerSends bs).inputs = s.inputs := rfl
@[simp] theorem State.peerSends_readlog (bs : List Byte) : (s.peerSends bs).readlog = s.readlog := rfl

/-! ### State.mark -/

@[simp] theorem State.mark_phase (u : Bool) : (s.mark u).phase = s.phase := rfl
@[simp] theorem State.mark_opreq (u : Bool) : (s.mark u).opreq = s.opreq := rfl
@[simp] theorem State.mark_werr (u : Bool) : (s.mark u).werr = s.werr := rfl
@[simp] theorem State.mark_res (u : Bool) : (s.mark u).res = s.res := rfl
@[simp] theorem State.mark_raw (u : Bool) : (s.mark u).raw = s.raw := rfl
@[simp] theorem State.mark_ato (u : Bool) : (s.mark u).ato = s.ato := rfl
@[simp] theorem State.mark_att (u : Bool) : (s.mark u).att = s.att := rfl
@[simp] theorem State.mark_addr (u : Bool) : (s.mark u).addr = s.addr := rfl
@[simp] theorem State.mark_plen (u : Bool) : (s.mark u).plen = s.plen := rfl
@[simp] theorem State.mark_cksum (u : Bool) : (s.mark u).cksum = s.cksum := rfl
@[simp] theorem State.mark_cmpl (u : Bool) : (s.mark u).cmpl = s.cmpl := rfl
@[simp] theorem State.mark_rl (u : Bool) : (s.mark u).rl = s.rl := rfl
@[simp] theorem State.mark_rcount (u : Bool) : (s.mark u).rcount = s.rcount := rfl
@[simp] theorem State.mark_tmo (u : Bool) : (s.mark u).tmo = s.tmo := rfl
@[simp] theorem State.mark_mem (u : Bool) : (s.mark u).mem = s.mem := rfl
@[simp] theorem State.mark_txlog (u : Bool) : (s.mark u).txlog = s.txlog := rfl
@[simp] theorem State.mark_rxlog (u : Bool) : (s.mark u).rxlog = s.rxlog := rfl
@[simp] theorem State.mark_rxnext (u : Bool) : (s.mark u).rxnext = s.rxnext := rfl
@[simp] theorem State.mark_peer (u : Bool) : (s.mark u).peer = s.peer := rfl
@[simp] theorem State.mark_inputs (u : Bool) : (s.mark u).inputs = s.inputs := rfl
@[simp] theorem State.mark_readlog (u : Bool) : (s.mark u).readlog = s.readlog := rfl
@[simp] theorem State.mark_faultMark (u : Bool) : (s.mark u).faultMark = (s.faultMark || u) := rfl
@[simp] theorem State.mark_unwrittenReads (u : Bool) : (s.mark u).unwrittenReads = s.unwrittenReads + u.toNat := rfl

/-- An access that meets no unwritten cell changes nothing. -/
@[simp] theorem State.mark_false : s.mark false = s := by simp [State.mark]

/-! ### State.sendBlock -/

@[simp] theorem State.sendBlock_phase (p : List Byte) : (s.sendBlock p).phase = s.phase := rfl
@[simp] theorem State.sendBlock_opreq (p : List Byte) : (s.sendBlock p).opreq = s.opreq := rfl
@[simp] theorem State.sendBlock_werr (p : List Byte) : (s.sendBlock p).werr = s.werr := rfl
@[simp] theorem State.sendBlock_res (p : List Byte) : (s.sendBlock p).res = s.res := rfl
@[simp] theorem State.sendBlock_raw (p : List Byte) : (s.sendBlock p).raw = s.raw := rfl
@[simp] theorem State.sendBlock_ato (p : List Byte) : (s.sendBlock p).ato = s.ato := rfl
@[simp] theorem State.sendBlock_att (p : List Byte) : (s.sendBlock p).att = s.att := rfl
@[simp] theorem State.sendBlock_addr (p : List Byte) : (s.sendBlock p).addr = s.addr := rfl
@[simp] theorem State.sendBlock_plen (p : List Byte) : (s.sendBlock p).plen = s.plen := rfl
@[simp] theorem State.sendBlock_cksum (p : List Byte) : (s.sendBlock p).cksum = xorfold p := rfl
@[simp] theorem State.sendBlock_cmpl (p : List Byte) : (s.sendBlock p).cmpl = s.cmpl := rfl
@[simp] theorem State.sendBlock_rl (p : List Byte) : (s.sendBlock p).rl = s.rl := rfl
@[simp] theorem State.sendBlock_rcount (p : List Byte) : (s.sendBlock p).rcount = s.rcount := rfl
@[simp] theorem State.sendBlock_tmo (p : List Byte) : (s.sendBlock p).tmo = s.tmo := rfl
@[simp] theorem State.sendBlock_mem (p : List Byte) : (s.sendBlock p).mem = s.mem := rfl
@[simp] theorem State.sendBlock_txlog (p : List Byte) : (s.sendBlock p).txlog = s.txlog ++ dataBlock p := rfl
@[simp] theorem State.sendBlock_rxlog (p : List Byte) : (s.sendBlock p).rxlog = s.rxlog := rfl
@[simp] theorem State.sendBlock_rxnext (p : List Byte) : (s.sendBlock p).rxnext = s.rxnext := rfl
@[simp] theorem State.sendBlock_peer (p : List Byte) : (s.sendBlock p).peer = s.peer := rfl
@[simp] theorem State.sendBlock_faultMark (p : List Byte) : (s.sendBlock p).faultMark = s.faultMark := rfl
@[simp] theorem State.sendBlock_unwrittenReads (p : List Byte) : (s.sendBlock p).unwrittenReads = s.unwrittenReads := rfl
@[simp] theorem State.sendBlock_inputs (p : List Byte) : (s.sendBlock p).inputs = s.inputs := rfl
@[simp] theorem State.sendBlock_readlog (p : List Byte) : (s.sendBlock p).readlog = s.readlog := rfl

/-! ### State.storeResponse -/

@[simp] theorem State.storeResponse_phase (p : List Byte) : (s.storeResponse p).phase = s.phase := rfl
@[simp] theorem State.storeResponse_opreq (p : List Byte) : (s.storeResponse p).opreq = s.opreq := rfl
@[simp] theorem State.storeResponse_werr (p : List Byte) : (s.storeResponse p).werr = s.werr := rfl
@[simp] theorem State.storeResponse_res (p : List Byte) : (s.storeResponse p).res = s.res := rfl
@[simp] theorem State.storeResponse_raw (p : List Byte) : (s.storeResponse p).raw = s.raw := rfl
@[simp] theorem State.storeResponse_ato (p : List Byte) : (s.storeResponse p).ato = s.ato := rfl
@[simp] theorem State.storeResponse_att (p : List Byte) : (s.storeResponse p).att = s.att := rfl
@[simp] theorem State.storeResponse_addr (p : List Byte) : (s.storeResponse p).addr = s.addr := rfl
@[simp] theorem State.storeResponse_plen (p : List Byte) : (s.storeResponse p).plen = s.plen := rfl
@[simp] theorem State.storeResponse_cksum (p : List Byte) : (s.storeResponse p).cksum = s.cksum := rfl
@[simp] theorem State.storeResponse_cmpl (p : List Byte) : (s.storeResponse p).cmpl = s.cmpl := rfl
@[simp] theorem State.storeResponse_rl (p : List Byte) : (s.storeResponse p).rl = s.rl := rfl
@[simp] theorem State.storeResponse_rcount (p : List Byte) : (s.storeResponse p).rcount = BitVec.ofNat 9 p.length := rfl
@[simp] theorem State.storeResponse_tmo (p : List Byte) : (s.storeResponse p).tmo = s.tmo := rfl
@[simp] theorem State.storeResponse_mem (p : List Byte) : (s.storeResponse p).mem = Memory.writeList s.mem (rbufOff 0) p := rfl
@[simp] theorem State.storeResponse_txlog (p : List Byte) : (s.storeResponse p).txlog = s.txlog := rfl
@[simp] theorem State.storeResponse_rxlog (p : List Byte) : (s.storeResponse p).rxlog = s.rxlog := rfl
@[simp] theorem State.storeResponse_rxnext (p : List Byte) : (s.storeResponse p).rxnext = s.rxnext := rfl
@[simp] theorem State.storeResponse_peer (p : List Byte) : (s.storeResponse p).peer = s.peer := rfl
@[simp] theorem State.storeResponse_faultMark (p : List Byte) : (s.storeResponse p).faultMark = s.faultMark := rfl
@[simp] theorem State.storeResponse_unwrittenReads (p : List Byte) : (s.storeResponse p).unwrittenReads = s.unwrittenReads := rfl
@[simp] theorem State.storeResponse_inputs (p : List Byte) : (s.storeResponse p).inputs = s.inputs := rfl
@[simp] theorem State.storeResponse_readlog (p : List Byte) : (s.storeResponse p).readlog = s.readlog := rfl

/-! ### State.clearRinfo -/

@[simp] theorem State.clearRinfo_phase : s.clearRinfo.phase = s.phase := rfl
@[simp] theorem State.clearRinfo_opreq : s.clearRinfo.opreq = s.opreq := rfl
@[simp] theorem State.clearRinfo_werr : s.clearRinfo.werr = s.werr := rfl
@[simp] theorem State.clearRinfo_res : s.clearRinfo.res = s.res := rfl
@[simp] theorem State.clearRinfo_raw : s.clearRinfo.raw = s.raw := rfl
@[simp] theorem State.clearRinfo_ato : s.clearRinfo.ato = s.ato := rfl
@[simp] theorem State.clearRinfo_att : s.clearRinfo.att = s.att := rfl
@[simp] theorem State.clearRinfo_addr : s.clearRinfo.addr = s.addr := rfl
@[simp] theorem State.clearRinfo_plen : s.clearRinfo.plen = s.plen := rfl
@[simp] theorem State.clearRinfo_cksum : s.clearRinfo.cksum = s.cksum := rfl
@[simp] theorem State.clearRinfo_cmpl : s.clearRinfo.cmpl = s.cmpl := rfl
@[simp] theorem State.clearRinfo_rl : s.clearRinfo.rl = 0 := rfl
@[simp] theorem State.clearRinfo_rcount : s.clearRinfo.rcount = 0 := rfl
@[simp] theorem State.clearRinfo_tmo : s.clearRinfo.tmo = s.tmo := rfl
@[simp] theorem State.clearRinfo_mem : s.clearRinfo.mem = s.mem := rfl
@[simp] theorem State.clearRinfo_txlog : s.clearRinfo.txlog = s.txlog := rfl
@[simp] theorem State.clearRinfo_rxlog : s.clearRinfo.rxlog = s.rxlog := rfl
@[simp] theorem State.clearRinfo_rxnext : s.clearRinfo.rxnext = s.rxnext := rfl
@[simp] theorem State.clearRinfo_peer : s.clearRinfo.peer = s.peer := rfl
@[simp] theorem State.clearRinfo_faultMark : s.clearRinfo.faultMark = s.faultMark := rfl
@[simp] theorem State.clearRinfo_unwrittenReads : s.clearRinfo.unwrittenReads = s.unwrittenReads := rfl
@[simp] theorem State.clearRinfo_inputs : s.clearRinfo.inputs = s.inputs := rfl
@[simp] theorem State.clearRinfo_readlog : s.clearRinfo.readlog = s.readlog := rfl

/-! ### State.handshakeSend -/

@[simp] theorem State.handshakeSend_phase (a : Nat) : (s.handshakeSend a).phase = s.phase := rfl
@[simp] theorem State.handshakeSend_opreq (a : Nat) : (s.handshakeSend a).opreq = s.opreq := rfl
@[simp] theorem State.handshakeSend_werr (a : Nat) : (s.handshakeSend a).werr = s.werr := rfl
@[simp] theorem State.handshakeSend_res (a : Nat) : (s.handshakeSend a).res = s.res := rfl
@[simp] theorem State.handshakeSend_raw (a : Nat) : (s.handshakeSend a).raw = s.raw := rfl
@[simp] theorem State.handshakeSend_ato (a : Nat) : (s.handshakeSend a).ato = s.ato := rfl
@[simp] theorem State.handshakeSend_att (a : Nat) : (s.handshakeSend a).att = BitVec.ofNat 4 a := rfl
@[simp] theorem State.handshakeSend_addr (a : Nat) : (s.handshakeSend a).addr = s.addr := rfl
@[simp] theorem State.handshakeSend_plen (a : Nat) : (s.handshakeSend a).plen = s.plen := rfl
@[simp] theorem State.handshakeSend_cksum (a : Nat) : (s.handshakeSend a).cksum = s.cksum := rfl
@[simp] theorem State.handshakeSend_cmpl (a : Nat) : (s.handshakeSend a).cmpl = s.cmpl := rfl
@[simp] theorem State.handshakeSend_rl (a : Nat) : (s.handshakeSend a).rl = s.rl := rfl
@[simp] theorem State.handshakeSend_rcount (a : Nat) : (s.handshakeSend a).rcount = s.rcount := rfl
@[simp] theorem State.handshakeSend_tmo (a : Nat) : (s.handshakeSend a).tmo = s.tmo := rfl
@[simp] theorem State.handshakeSend_mem (a : Nat) : (s.handshakeSend a).mem = s.mem := rfl
@[simp] theorem State.handshakeSend_txlog (a : Nat) : (s.handshakeSend a).txlog = s.txlog ++ [Config.params.initByte] := rfl
@[simp] theorem State.handshakeSend_rxlog (a : Nat) : (s.handshakeSend a).rxlog = s.rxlog := rfl
@[simp] theorem State.handshakeSend_rxnext (a : Nat) : (s.handshakeSend a).rxnext = s.rxnext := rfl
@[simp] theorem State.handshakeSend_peer (a : Nat) : (s.handshakeSend a).peer = s.peer := rfl
@[simp] theorem State.handshakeSend_faultMark (a : Nat) : (s.handshakeSend a).faultMark = s.faultMark := rfl
@[simp] theorem State.handshakeSend_unwrittenReads (a : Nat) : (s.handshakeSend a).unwrittenReads = s.unwrittenReads := rfl
@[simp] theorem State.handshakeSend_inputs (a : Nat) : (s.handshakeSend a).inputs = s.inputs := rfl
@[simp] theorem State.handshakeSend_readlog (a : Nat) : (s.handshakeSend a).readlog = s.readlog := rfl

/-! ### State.dropWrite -/

@[simp] theorem State.dropWrite_phase : s.dropWrite.phase = s.phase := rfl
@[simp] theorem State.dropWrite_opreq : s.dropWrite.opreq = s.opreq := rfl
@[simp] theorem State.dropWrite_werr : s.dropWrite.werr = true := rfl
@[simp] theorem State.dropWrite_res : s.dropWrite.res = s.res := rfl
@[simp] theorem State.dropWrite_raw : s.dropWrite.raw = s.raw := rfl
@[simp] theorem State.dropWrite_ato : s.dropWrite.ato = s.ato := rfl
@[simp] theorem State.dropWrite_att : s.dropWrite.att = s.att := rfl
@[simp] theorem State.dropWrite_addr : s.dropWrite.addr = s.addr := rfl
@[simp] theorem State.dropWrite_plen : s.dropWrite.plen = s.plen := rfl
@[simp] theorem State.dropWrite_cksum : s.dropWrite.cksum = s.cksum := rfl
@[simp] theorem State.dropWrite_cmpl : s.dropWrite.cmpl = s.cmpl := rfl
@[simp] theorem State.dropWrite_rl : s.dropWrite.rl = s.rl := rfl
@[simp] theorem State.dropWrite_rcount : s.dropWrite.rcount = s.rcount := rfl
@[simp] theorem State.dropWrite_tmo : s.dropWrite.tmo = s.tmo := rfl
@[simp] theorem State.dropWrite_mem : s.dropWrite.mem = s.mem := rfl
@[simp] theorem State.dropWrite_txlog : s.dropWrite.txlog = s.txlog := rfl
@[simp] theorem State.dropWrite_rxlog : s.dropWrite.rxlog = s.rxlog := rfl
@[simp] theorem State.dropWrite_rxnext : s.dropWrite.rxnext = s.rxnext := rfl
@[simp] theorem State.dropWrite_peer : s.dropWrite.peer = s.peer := rfl
@[simp] theorem State.dropWrite_faultMark : s.dropWrite.faultMark = s.faultMark := rfl
@[simp] theorem State.dropWrite_unwrittenReads : s.dropWrite.unwrittenReads = s.unwrittenReads := rfl
@[simp] theorem State.dropWrite_inputs : s.dropWrite.inputs = s.inputs := rfl
@[simp] theorem State.dropWrite_readlog : s.dropWrite.readlog = s.readlog := rfl

end Sys2Proof.Machine
end

