-- ==== Sys2Proof/Laws/Memory.lean ====
section
/-! SUPPORT. The buffers (R35, R36): reading after writing, the canonical form, and reading and writing runs of cells. -/

namespace Sys2Proof.Machine

/-- A read after a write: the byte at its own cell, and every other cell as before. -/
theorem Memory.read_write (m : Memory) (a a' : Nat) (b : Byte) :
    Memory.read (Memory.write m a b) a' = if a' = a then some b else Memory.read m a' := by
  induction m with
  | nil =>
    by_cases h : a' = a
    · simp [Memory.write, Memory.read, h]
    · by_cases h2 : a' < a <;> simp [Memory.write, Memory.read, h, h2]
  | cons c rest ih =>
    simp only [Memory.write]
    split
    · next h =>
      subst h
      by_cases h1 : a' = c.1
      · simp [Memory.read, h1]
      · simp [Memory.read, h1]
    · next h =>
      split
      · next h2 =>
        by_cases h1 : a' = a
        · simp [Memory.read, h1]
        · by_cases h3 : a' < a
          · have h4 : a' < c.1 := by omega
            have h5 : a' ≠ c.1 := by omega
            simp [Memory.read, h1, h3, h4, h5]
          · simp [Memory.read, h1, h3]
      · next h2 =>
        by_cases h1 : a' = c.1
        · have : a' ≠ a := by omega
          simp [Memory.read, h1, Ne.symm h]
        · by_cases h3 : a' < c.1
          · have h5 : a' ≠ a := by omega
            simp [Memory.read, h1, h3, h5]
          · simp [Memory.read, h1, h3, ih]

/-- A write keeps the offsets strictly rising. -/
theorem Memory.risingFrom_write {m : Memory} {lo a : Nat} (b : Byte) (h : Memory.risingFrom lo m = true) (ha : lo ≤ a) :
    Memory.risingFrom lo (Memory.write m a b) = true := by
  induction m generalizing lo with
  | nil => simp [Memory.write, Memory.risingFrom, ha]
  | cons c rest ih =>
    simp only [Memory.risingFrom, Bool.and_eq_true, decide_eq_true_eq] at h
    simp only [Memory.write]
    split
    · next h1 => subst h1; simp [Memory.risingFrom, h]
    · split
      · next h1 h2 => simp [Memory.risingFrom, ha, h]; omega
      · next h1 h2 => simp [Memory.risingFrom, h.1, ih h.2 (by omega)]

/-- Every write keeps the canonical form. -/
theorem Memory.wf_write {m : Memory} (a : Nat) (b : Byte) (h : Memory.wf m = true) :
    Memory.wf (Memory.write m a b) = true :=
  Memory.risingFrom_write b h (Nat.zero_le a)

/-- Every run of writes keeps the canonical form. -/
theorem Memory.wf_writeList {m : Memory} (a : Nat) (bs : List Byte) (h : Memory.wf m = true) :
    Memory.wf (Memory.writeList m a bs) = true := by
  induction bs generalizing m a with
  | nil => exact h
  | cons b rest ih => exact ih (a + 1) (Memory.wf_write a b h)

/-- The memory after reset is in canonical form. -/
theorem Memory.wf_reset : Memory.wf State.reset.mem = true := rfl

/-- The cells listed after a write are the one written and those listed before. -/
theorem Memory.mem_write {m : Memory} {a : Nat} {b : Byte} {c : Host.Cell} (h : c ∈ Memory.write m a b) :
    c = (a, b) ∨ c ∈ m := by
  induction m with
  | nil => simpa [Memory.write] using h
  | cons d rest ih =>
    simp only [Memory.write] at h
    split at h
    · simp only [List.mem_cons] at h ⊢
      exact h.imp_right Or.inr
    · split at h
      · simpa using h
      · simp only [List.mem_cons] at h ⊢
        rcases h with h | h
        · exact .inr (.inl h)
        · exact (ih h).imp_right Or.inr

/-- The cells listed after a run of writes are in the run or were listed before. -/
theorem Memory.mem_writeList {m : Memory} {a : Nat} {bs : List Byte} {c : Host.Cell}
    (h : c ∈ Memory.writeList m a bs) : (a ≤ c.1 ∧ c.1 < a + bs.length) ∨ c ∈ m := by
  induction bs generalizing m a with
  | nil => exact .inr h
  | cons b rest ih =>
    rcases ih h with h1 | h1
    · simp only [List.length_cons]
      omega
    · rcases Memory.mem_write h1 with h2 | h2
      · subst h2; simp
      · exact .inr h2

/-- A read after a run of writes: the byte of the run inside it, every other cell as before. -/
theorem Memory.read_writeList (m : Memory) (a a' : Nat) (bs : List Byte) :
    Memory.read (Memory.writeList m a bs) a' =
      if a ≤ a' ∧ a' < a + bs.length then bs[a' - a]? else Memory.read m a' := by
  induction bs generalizing m a with
  | nil =>
    have : ¬(a ≤ a' ∧ a' < a + 0) := by omega
    simp only [Memory.writeList, List.length_nil, this, if_false]
  | cons b rest ih =>
    simp only [Memory.writeList, ih, Memory.read_write, List.length_cons]
    by_cases h1 : a' = a
    · subst h1
      simp
    · by_cases h2 : a + 1 ≤ a' ∧ a' < a + 1 + rest.length
      · have h3 : a ≤ a' ∧ a' < a + (rest.length + 1) := by omega
        have h4 : a' - a = (a' - (a + 1)) + 1 := by omega
        simp [h2, h3, h4]
      · have h3 : ¬(a ≤ a' ∧ a' < a + (rest.length + 1)) := by omega
        rw [if_neg h2, if_neg h3, if_neg h1]

/-- R202: a run of cells has an unwritten one, or has none. -/
theorem Memory.unwritten_iff {m : Memory} {a n : Nat} :
    Memory.unwritten m a n = true ↔ ∃ i, i < n ∧ Memory.read m (a + i) = none := by
  simp [Memory.unwritten]

/-- A read of a run of cells gives as many bytes. -/
@[simp] theorem State.cells_length (s : State) (a n : Nat) : (s.cells a n).length = n := by simp [State.cells]

/-- A written cell reads as the byte written. -/
theorem State.cell_written {s : State} {a : Nat} {b : Byte} (h : Memory.read s.mem a = some b) : s.cell a = b := by
  simp [State.cell, h]

/-- A read of a run of cells, byte by byte. -/
theorem State.cells_getElem? (s : State) {a n i : Nat} (h : i < n) : (s.cells a n)[i]? = some (s.cell (a + i)) := by
  simp [State.cells, h]

end Sys2Proof.Machine
end

