-- ==== Sys2Proof/Laws/Ops.lean ====
section
/-! SUPPORT. One lemma per shared operation that says once everything it can do, for proofs to cite instead of unfolding
it. -/

namespace Sys2Proof.Machine

/-! ### The oracle -/

/-- R28: an answer is never longer than what was asked. -/
theorem State.answer_length (s : State) (k : Nat) (t : Word) : (s.answer k t).length ≤ k := by
  simp [State.answer, List.length_take]

/-- R28: an answer that is written down in the state is the one given. -/
theorem State.answer_scripted {s : State} {a : List Byte} {rest : List (List Byte)} (k : Nat) (t : Word)
    (h : s.rxnext = a :: rest) : s.answer k t = a.take k := by
  simp [State.answer, h]

/-- The answer depends on the wire streams and the oracle alone. -/
theorem State.answer_congr {s u : State} (k : Nat) (t : Word) (h1 : u.rxnext = s.rxnext) (h2 : u.peer = s.peer)
    (h3 : u.txlog = s.txlog) (h4 : u.rxlog = s.rxlog) : u.answer k t = s.answer k t := by
  simp [State.answer, h1, h2, h3, h4]

/-- One read as a list of reads: its answer is one the PEER may give. -/
theorem State.reads_one (s : State) (k : Nat) (t : Word) (n : Nat) :
    s.Reads [{ asked := k, timeout := t, after := n, answer := s.answer k t }] := by
  rintro (_ | j) r hr
  · obtain rfl : _ = r := by simpa using hr
    refine ⟨s.answer_length k t, fun a ha => ?_⟩
    cases hq : s.rxnext with
    | nil => simp [hq] at ha
    | cons b rest =>
      obtain rfl : b = a := by simpa [hq] using ha
      exact State.answer_scripted k t hq
  · simp at hr

/-- Reads after a first read: those of the state it leaves. -/
theorem State.reads_cons {s u : State} {r : RxRead} {rs : List RxRead} (h1 : s.Reads [r]) (hn : u.rxnext = s.rxnext.tail)
    (h2 : u.Reads rs) : s.Reads (r :: rs) := by
  rintro (_ | j) q hq
  · exact h1 0 q (by simpa using hq)
  · have hq' : rs[j]? = some q := by simpa using hq
    refine ⟨(h2 j q hq').1, fun a ha => (h2 j q hq').2 a ?_⟩
    rw [hn]
    cases hx : s.rxnext with
    | nil => simp [hx] at ha
    | cons b rest => simpa [hx] using ha

/-- Which reads the PEER may answer depends on its written answers alone. -/
theorem State.reads_congr {s u : State} {rs : List RxRead} (hn : u.rxnext = s.rxnext) (h : u.Reads rs) : s.Reads rs := by
  intro j r hr
  have := h j r hr
  rwa [hn] at this

/-- A list of at most one byte is none or one. -/
theorem nil_or_singleton {a : List Byte} (h : a.length ≤ 1) : a = [] ∨ ∃ b, a = [b] := by
  match a, h with
  | [], _ => exact .inl rfl
  | [b], _ => exact .inr ⟨b, rfl⟩

/-! ### Acknowledgment detection -/

/-- R78: a byte's result, in the spec's numbers. -/
theorem ackResult_eq (b : Byte) : ackResult b = ackRes [b] := rfl

/-- R150: AckDetect makes one read, and the state is that of its answer. -/
theorem State.ackDetect_eq (s : State) (t : Word) : s.ackDetect t = s.afterAck t (s.answer 1 t) := by
  rcases nil_or_singleton (s.answer_length 1 t) with h | ⟨b, h⟩ <;>
    simp [State.ackDetect, State.afterAck, State.classify, State.finish, State.received, h, ackResult_eq]
  rfl

/-- The answer of AckDetect is one the PEER may give. -/
theorem State.ackDetect_reads (s : State) (t : Word) :
    s.Reads [{ asked := 1, timeout := t, after := s.txlog.length, answer := s.answer 1 t }] :=
  s.reads_one 1 t _

/-! ### The payload -/

/-- A payload read gives the written bytes where the cells are written. -/
theorem State.cells_mayRead (s : State) : s.MayRead (s.cells 0x20000 s.plen.toNat) := by
  refine ⟨s.cells_length _ _, fun i b hi h => ?_⟩
  rw [s.cells_getElem? (by simpa using hi), State.cell_written h]

/-- R203: outside the bounds an operation over the payload finishes with ELEN; else it goes on with what reading the payload
may give, in a run that is marked when a cell is unwritten. -/
theorem State.withPayload_cases (s : State) (lo : Nat) (k : State → List Byte → State) :
    ((s.plen.toNat < lo ∨ 131070 < s.plen.toNat) ∧ s.withPayload lo k = s.finish .elen 0x00) ∨
    (lo ≤ s.plen.toNat ∧ s.plen.toNat ≤ 131070 ∧ ∃ (p : List Byte) (u : Bool), s.MayRead p ∧ (u = true ↔ s.HasUnwritten) ∧
      s.withPayload lo k = k (s.mark u) p) := by
  by_cases hb : s.plen.toNat < lo ∨ 131070 < s.plen.toNat
  · exact .inl ⟨hb, by simp [State.withPayload, hb]⟩
  · exact .inr ⟨by omega, by omega, _, _, s.cells_mayRead, Memory.unwritten_iff, by simp [State.withPayload, hb, pbufOff]⟩

/-- What reading a payload that is held gives is that payload. -/
theorem State.mayRead_held {s : State} {p q : List Byte} (hp : s.HoldsPayload p) (hq : s.MayRead q) : q = p := by
  apply List.ext_getElem?
  intro i
  by_cases hi : i < p.length
  · have h := hp.2 i hi
    rw [List.getElem?_eq_getElem hi] at h ⊢
    exact hq.2 i _ (by rw [hq.1, ← hp.1]; exact hi) h
  · have e1 : p[i]? = none := List.getElem?_eq_none (by omega)
    have e2 : q[i]? = none := List.getElem?_eq_none (by rw [hq.1, ← hp.1]; omega)
    rw [e1, e2]

/-- A payload that is held has no unwritten cell. -/
theorem State.not_hasUnwritten_of_held {s : State} {p : List Byte} (hp : s.HoldsPayload p) : ¬ s.HasUnwritten := by
  rintro ⟨i, hi, hn⟩
  have h := hp.2 i (by rw [hp.1]; exact hi)
  rw [hn, eq_comm, List.getElem?_eq_none_iff, hp.1] at h
  omega

/-- R203: with a payload held and its length allowed, the operation goes on with it. -/
theorem State.withPayload_held {s : State} {lo : Nat} {p : List Byte} (k : State → List Byte → State)
    (h1 : lo ≤ s.plen.toNat) (h2 : s.plen.toNat ≤ 131070) (hp : s.HoldsPayload p) : s.withPayload lo k = k s p := by
  rcases s.withPayload_cases lo k with ⟨h, _⟩ | ⟨_, _, q, u, hq, hu, e⟩
  · omega
  · have hf : u = false := Bool.eq_false_iff.2 (fun h => State.not_hasUnwritten_of_held hp (hu.1 h))
    rw [e, hf, State.mark_false, State.mayRead_held hp hq]

/-- R202, R203: with an unwritten cell in the payload and its length allowed, it goes on in a marked run. -/
theorem State.withPayload_unwritten {s : State} {lo : Nat} (k : State → List Byte → State) (h1 : lo ≤ s.plen.toNat)
    (h2 : s.plen.toNat ≤ 131070) (hu : s.HasUnwritten) : ∃ p, s.MayRead p ∧ s.withPayload lo k = k s.marked p := by
  rcases s.withPayload_cases lo k with ⟨h, _⟩ | ⟨_, _, q, u, hq, hu', e⟩
  · omega
  · exact ⟨q, hq, by rw [e, hu'.2 hu]⟩

/-- R126, R203: outside the bounds it finishes with ELEN. -/
theorem State.withPayload_elen {s : State} {lo : Nat} (k : State → List Byte → State)
    (h : s.plen.toNat < lo ∨ 131070 < s.plen.toNat) : s.withPayload lo k = s.finish .elen 0x00 := by
  simp [State.withPayload, h]

/-- A run of writes stores its bytes and nothing else. -/
theorem stored_writeList (m : Memory) (off : Nat) (bs : List Byte) : Stored m (Memory.writeList m off bs) off bs :=
  fun a => Memory.read_writeList m off a bs

/-- R122, R123, R125: past P_MAX nothing is appended. -/
theorem State.appendPayload_elen {s : State} {bs : List Byte} (h : 131070 < s.plen.toNat + bs.length) :
    s.appendPayload bs = s.finish .elen 0x00 := by
  simp [State.appendPayload, h]

/-- R122, R123, R125: otherwise the bytes are stored at PBUF[PLEN] and PLEN grows by their number. -/
theorem State.appendPayload_ok {s : State} {bs : List Byte} (h : s.plen.toNat + bs.length ≤ 131070) :
    s.appendPayload bs =
      { s with
        mem := Memory.writeList s.mem (0x20000 + s.plen.toNat) bs, plen := s.plen + BitVec.ofNat 17 bs.length
        phase := .idle, res := .ok, raw := 0x00 } := by
  have h1 : ¬ 131070 < s.plen.toNat + bs.length := by omega
  have h2 : BitVec.ofNat 17 (s.plen.toNat + bs.length) = s.plen + BitVec.ofNat 17 bs.length := by
    apply BitVec.eq_of_toNat_eq
    simp
  simp [State.appendPayload, h1, State.finish, pbufOff, h2]

/-! ### DataBlocks and responses -/

/-- R127, R129, R131: CKSUM and the bytes of a DataBlock. -/
theorem State.sendBlock_eq (s : State) (p : List Byte) :
    s.sendBlock p = { s with cksum := xorfold p, txlog := s.txlog ++ p ++ [xorfold p] } := by
  simp [State.sendBlock, State.transmit, dataBlock]

/-- R80, R97: a sentinel's CLRBUF, PUT16BE and SENDFRAME complete from every state. -/
theorem State.sendSentinel_eq (s : State) (v : Half) :
    s.sendSentinel v =
      { s with
        mem := Memory.writeList s.mem 0x20000 (be16 v), plen := 2, cksum := xorfold (be16 v)
        txlog := s.txlog ++ be16 v ++ [xorfold (be16 v)], phase := .idle, res := .ok, raw := 0x00 } := by
  have e : s.clearPayload.appendPayload (be16 v) = _ := State.appendPayload_ok (by simp [State.clearPayload, be16])
  rw [State.sendSentinel, e, State.sendFrame, State.withPayload_held (p := be16 v) _
    (by simp [State.clearPayload, be16]) (by simp [State.clearPayload, be16]) ?_]
  · simp [State.sendBlock_eq, State.finish, State.clearPayload, be16]
  · refine ⟨by simp [State.clearPayload, be16], fun i hi => ?_⟩
    simp only [Memory.read_writeList]
    rw [if_pos (by simp [State.clearPayload]; exact hi)]
    simp [State.clearPayload]

/-- R172: READRAW with a legal count. -/
theorem State.readRaw_eq {s : State} {n : Nat} (h1 : 1 ≤ n) (h2 : n ≤ 256) :
    s.readRaw n = ((s.clearRinfo.received n s.tmo).storeResponse (s.clearRinfo.answer n s.tmo)).finish
      (if (s.clearRinfo.answer n s.tmo).length < n then .short else .ok) 0x00 := by
  have hb : ¬(n < 1 ∨ 256 < n) := by omega
  rw [State.readRaw, Config.params_block, if_neg hb]

/-- R172: READRAW with another count. -/
theorem State.readRaw_elen {s : State} {n : Nat} (h : n < 1 ∨ 256 < n) : s.readRaw n = s.finish .elen 0x00 := by
  rw [State.readRaw, Config.params_block, if_pos h]

/-- R170: READRESP has no length byte, or a length byte and a short payload, or a whole payload and an acknowledgment
read. -/
theorem State.readResponse_cases (s : State) :
    ∃ rs : List RxRead, s.Reads rs ∧ s.readResponse.rxlog = s.rxlog ++ rs ∧
      ((rs = [⟨1, s.tmo, s.txlog.length, []⟩] ∧
          s.readResponse = { s with
            rl := 0, rcount := 0, rxlog := s.readResponse.rxlog, rxnext := s.rxnext.drop 1
            phase := .idle, res := .timeout, raw := 0x00 }) ∨
        (∃ (len : Byte) (p : List Byte), p.length < len.toNat + 1 ∧
          rs = [⟨1, s.tmo, s.txlog.length, [len]⟩, ⟨len.toNat + 1, s.tmo, s.txlog.length, p⟩] ∧
          s.readResponse.mem = Memory.writeList s.mem 0x100 p ∧
          s.readResponse = { s with
            mem := s.readResponse.mem, rl := len, rcount := BitVec.ofNat 9 p.length, rxlog := s.readResponse.rxlog
            rxnext := s.rxnext.drop 2, phase := .idle, res := .timeout, raw := 0x00 }) ∨
        ∃ (len : Byte) (p a : List Byte), p.length = len.toNat + 1 ∧
          rs = [⟨1, s.tmo, s.txlog.length, [len]⟩, ⟨len.toNat + 1, s.tmo, s.txlog.length, p⟩,
            ⟨1, s.tmo, s.txlog.length, a⟩] ∧
          s.readResponse.mem = Memory.writeList s.mem 0x100 p ∧
          s.readResponse = { s with
            mem := s.readResponse.mem, rl := len, rcount := BitVec.ofNat 9 p.length, rxlog := s.readResponse.rxlog
            rxnext := s.rxnext.drop 3, phase := .idle, res := ackRes a, raw := a.headD 0x00 }) := by
  have tail2 : ∀ l : List (List Byte), l.tail.tail = l.drop 2 := fun l => by cases l <;> simp
  have hr1 : s.Reads [⟨1, s.tmo, s.txlog.length, s.clearRinfo.answer 1 s.tmo⟩] :=
    State.reads_congr (u := s.clearRinfo) rfl (s.clearRinfo.reads_one 1 s.tmo _)
  rcases nil_or_singleton (s.clearRinfo.answer_length 1 s.tmo) with h | ⟨len, h⟩
  · have e : s.readResponse = (s.clearRinfo.received 1 s.tmo).finish .timeout 0x00 := by simp [State.readResponse, h]
    rw [h] at hr1
    refine ⟨_, hr1, ?_, .inl ⟨rfl, ?_⟩⟩
    · rw [e]; simp [h]
    · rw [e]; simp [State.finish, State.received, State.clearRinfo]
  · rw [h] at hr1
    let u : State := { s.clearRinfo.received 1 s.tmo with rl := len }
    let p := u.answer (len.toNat + 1) s.tmo
    let v : State := (u.received (len.toNat + 1) s.tmo).storeResponse p
    have e : s.readResponse = if p.length < len.toNat + 1 then v.finish .timeout 0x00 else v.ackDetect s.tmo := by
      simp only [State.readResponse, h]
      rfl
    have hr2 : u.Reads [⟨len.toNat + 1, s.tmo, s.txlog.length, p⟩] := u.reads_one _ _ _
    by_cases hp : p.length < len.toNat + 1
    · rw [if_pos hp] at e
      refine ⟨_, State.reads_cons hr1 (u := u) rfl hr2, ?_, .inr (.inl ⟨len, p, hp, rfl, ?_, ?_⟩)⟩
      · rw [e]; simp [v, p, u, h]
      · rw [e]; rfl
      · rw [e]; simp [State.finish, State.received, State.clearRinfo, State.storeResponse, v, p, u, tail2]
    · rw [if_neg hp, State.ackDetect_eq] at e
      have hr3 : v.Reads [⟨1, s.tmo, s.txlog.length, v.answer 1 s.tmo⟩] := v.reads_one _ _ _
      have hpl : p.length ≤ len.toNat + 1 := u.answer_length _ _
      refine ⟨_, State.reads_cons hr1 (u := u) rfl (State.reads_cons hr2 (u := v) rfl hr3), ?_,
        .inr (.inr ⟨len, p, v.answer 1 s.tmo, by omega, rfl, ?_, ?_⟩)⟩
      · rw [e]; simp [State.afterAck, v, p, u, h]
      · rw [e]; rfl
      · rw [e]; simp [State.afterAck, State.received, State.clearRinfo, State.storeResponse, v, p, u, tail2]

/-! ### The loops -/

/-- R152: what the tolerant loop does with `left` reads to go: `n` reads that time out, then a byte; or all of them. -/
theorem State.tolerantReads_cases (s : State) (left : Nat) (hl : left ≤ 8) :
    ∃ rs, s.Reads rs ∧
      ((∃ n b, n < left ∧
          rs = List.replicate n ⟨1, s.tmo, s.txlog.length, []⟩ ++ [⟨1, s.tmo, s.txlog.length, [b]⟩] ∧
          s.tolerantReads left =
            { s with
              rxlog := s.rxlog ++ rs, rxnext := s.rxnext.drop (n + 1)
              ato := if n = 0 then s.ato else BitVec.ofNat 4 (8 - left + n)
              phase := .idle, res := ackRes [b], raw := b }) ∨
        (rs = List.replicate left ⟨1, s.tmo, s.txlog.length, []⟩ ∧
          s.tolerantReads left =
            { s with
              rxlog := s.rxlog ++ rs, rxnext := s.rxnext.drop left
              ato := if left = 0 then s.ato else BitVec.ofNat 4 8
              phase := .idle, res := .ok, raw := 0x00 })) := by
  induction left generalizing s with
  | zero =>
    exact ⟨[], by intro j r hr; simp at hr, .inr ⟨by simp, by simp [State.tolerantReads, State.finish]⟩⟩
  | succ k ih =>
    rcases nil_or_singleton (s.answer_length 1 s.tmo) with h | ⟨b, h⟩
    · obtain ⟨rs, hrs, hcase⟩ := ih { s.received 1 s.tmo with ato := BitVec.ofNat 4 (8 - k) } (by omega)
      have hstep : s.tolerantReads (k + 1) =
          State.tolerantReads { s.received 1 s.tmo with ato := BitVec.ofNat 4 (8 - k) } k := by
        simp [State.tolerantReads, h]
      have h1 := s.reads_one 1 s.tmo s.txlog.length
      rw [h] at h1
      refine ⟨⟨1, s.tmo, s.txlog.length, []⟩ :: rs, State.reads_cons h1 rfl hrs, ?_⟩
      rcases hcase with ⟨n, b, hn, hr, ht⟩ | ⟨hr, ht⟩
      · left
        refine ⟨n + 1, b, by omega, by simp [hr, List.replicate_succ], ?_⟩
        rw [hstep, ht]
        have e : (if n = 0 then BitVec.ofNat 4 (8 - k) else BitVec.ofNat 4 (8 - k + n)) =
            BitVec.ofNat 4 (8 - (k + 1) + (n + 1)) := by
          split
          · next h0 => subst h0; congr 1; omega
          · congr 1; omega
        simp [e, h, List.append_assoc]
      · right
        refine ⟨by simp [hr, List.replicate_succ], ?_⟩
        rw [hstep, ht]
        have e : (if k = 0 then BitVec.ofNat 4 (8 - k) else BitVec.ofNat 4 8) = BitVec.ofNat 4 8 := by
          split
          · next h0 => subst h0; rfl
          · rfl
        simp only [e, h, State.received_rxlog, State.received_rxnext, List.append_assoc]
        simp [h, State.received]
    · refine ⟨[⟨1, s.tmo, s.txlog.length, [b]⟩], ?_, .inl ⟨0, b, by omega, by simp, ?_⟩⟩
      · have h1 := s.reads_one 1 s.tmo s.txlog.length
        rwa [h] at h1
      · simp [State.tolerantReads, h, State.classify, State.finish, State.received, ackResult_eq]

/-- R153: what the handshake does with `left` attempts to go: windows whose last byte is not ACK, up to one whose last
byte is, or to the last. -/
theorem State.handshakeAttempts_cases (s : State) (left : Nat) (raw : Byte) (hl : left ≤ 5) (h0 : 0 < left) :
    ∃ (ws : List (List Byte)) (rs : List RxRead), s.Reads rs ∧ 1 ≤ ws.length ∧ ws.length ≤ left ∧
      rs = ws.mapIdx (fun j w => ⟨1024, 1000, s.txlog.length + j + 1, w⟩) ∧
      (∀ w ∈ ws.dropLast, w.getLast? ≠ some 0x79) ∧
      ∃ w, ws.getLast? = some w ∧
        ((w.getLast? = some 0x79 ∧
            s.handshakeAttempts left raw =
              { s with
                txlog := s.txlog ++ List.replicate ws.length 0x7F, rxlog := s.rxlog ++ rs
                rxnext := s.rxnext.drop ws.length, att := BitVec.ofNat 4 (5 - left + ws.length)
                phase := .idle, res := .ok, raw := 0x79 }) ∨
          (ws.length = left ∧ w.getLast? ≠ some 0x79 ∧
            s.handshakeAttempts left raw =
              { s with
                txlog := s.txlog ++ List.replicate left 0x7F, rxlog := s.rxlog ++ rs, rxnext := s.rxnext.drop left
                att := BitVec.ofNat 4 5, phase := .idle, res := .hsfail, raw := w.getLast?.getD 0x00 })) := by
  induction left generalizing s raw with
  | zero => omega
  | succ k ih =>
    let sent := s.handshakeSend (5 - k)
    let w := sent.answer 1024 1000
    have hread : s.Reads [⟨1024, 1000, s.txlog.length + 1, w⟩] :=
      State.reads_congr (u := sent) rfl (sent.reads_one 1024 1000 _)
    by_cases hw : w.getLast? = some 0x79
    · refine ⟨[w], [⟨1024, 1000, s.txlog.length + 1, w⟩], hread, by simp, by simp, by simp, by simp, w, by simp,
        .inl ⟨hw, ?_⟩⟩
      have e : 5 - k = 4 - k + 1 := by omega
      have hw' : (State.answer (s.handshakeSend (5 - k)) 1024 1000).getLast? = some 0x79 := hw
      simp only [State.handshakeAttempts, Config.params_hsAttempts, Config.params_hsWindow, Config.params_hsTmoMs,
        Config.params_ack, hw', if_true]
      simp [State.finish, State.received, State.handshakeSend, State.transmit, w, sent, e]
    · let heard := sent.received 1024 1000
      have hstep : s.handshakeAttempts (k + 1) raw = heard.handshakeAttempts k (w.getLast?.getD 0x00) := by
        have hw' : ¬ (State.answer (s.handshakeSend (5 - k)) 1024 1000).getLast? = some 0x79 := hw
        simp only [State.handshakeAttempts, Config.params_hsAttempts, Config.params_hsWindow, Config.params_hsTmoMs,
          Config.params_ack, hw', if_false]
        rfl
      by_cases hk : k = 0
      · subst hk
        refine ⟨[w], [⟨1024, 1000, s.txlog.length + 1, w⟩], hread, by simp, by simp, by simp, by simp, w, by simp,
          .inr ⟨rfl, hw, ?_⟩⟩
        rw [hstep]
        simp [State.handshakeAttempts, State.finish, State.received, State.handshakeSend, State.transmit, w, sent, heard]
      · obtain ⟨ws, rs, hr, h1, h2, hrs, hpre, v, hv, hcase⟩ := ih heard (w.getLast?.getD 0x00) (by omega) (by omega)
        have hlen : heard.txlog.length = s.txlog.length + 1 := by simp [heard, sent]
        have hne : ws ≠ [] := by rintro rfl; simp at h1
        refine ⟨w :: ws, ⟨1024, 1000, s.txlog.length + 1, w⟩ :: rs, State.reads_cons hread rfl hr, by simp,
          by simp; omega, ?_, ?_, v, ?_, ?_⟩
        · rw [hrs, hlen, List.mapIdx_cons]
          simp only [Nat.add_zero, List.cons.injEq, true_and]
          congr 1
          funext j u
          congr 1
          omega
        · rw [List.dropLast_cons_of_ne_nil hne]
          intro u hu
          rcases List.mem_cons.1 hu with rfl | hu
          · exact hw
          · exact hpre u hu
        · rw [List.getLast?_cons, hv]
          rfl
        · have htx : ∀ n, heard.txlog ++ List.replicate n 0x7F = s.txlog ++ List.replicate (n + 1) 0x7F := by
            intro n
            simp [heard, sent, List.replicate_succ]
          have hrx : heard.rxlog ++ rs = s.rxlog ++ (⟨1024, 1000, s.txlog.length + 1, w⟩ :: rs) := by
            simp [heard, sent, w]
          have hnx : ∀ n, heard.rxnext.drop n = s.rxnext.drop (n + 1) := by
            intro n
            simp [heard, sent]
          have e : 5 - k + ws.length = 5 - (k + 1) + (ws.length + 1) := by omega
          rcases hcase with ⟨h3, h4⟩ | ⟨h3, h4, h5⟩
          · left
            refine ⟨h3, ?_⟩
            rw [hstep, h4, htx, hrx, hnx, e]
            rfl
          · right
            refine ⟨by simp [h3], h4, ?_⟩
            rw [hstep, h5, htx, hrx, hnx]
            rfl

end Sys2Proof.Machine
end

