-- ==== Sys2Proof/Laws/Exec.lean ====
section
/-! SUPPORT. Everything an operation that answers a next state can do, said once: `Effect` lists the cases, and
`exec_effect` says there is no other. A proof about all operations goes through its cases. -/

namespace Sys2Proof.Machine

/-- The bytes an operation appends to the payload (R122, R123, R125). -/
def appended (s : State) (i : Instr) : Option (List Byte) :=
  match i with
  | .put8 b => some [b]
  | .put16be v => some (be16 v)
  | .put32be => some (be32 s.addr)
  | _ => none

/-- The command byte whose frame an operation or a wire pattern sends (R75, R110). -/
def commandOf (i : Instr) : Option Byte :=
  match i with
  | .sendcmd c => some c
  | .cmdGet => some 0x00
  | .cmdGetId => some 0x02
  | .cmdRead => some 0x11
  | .cmdGo => some 0x21
  | .cmdWrite => some 0x31
  | .cmdErase => some 0x43
  | .cmdEraseExtended => some 0x44
  | _ => none

/-- The sentinel a wire pattern carries (R80). -/
def sentinelOf (i : Instr) : Option Half :=
  match i with
  | .sentinelMass => some 0xFFFF
  | .sentinelBank1 => some 0xFFFE
  | .sentinelBank2 => some 0xFFFD
  | _ => none

/-- The operations that can finish with ELEN (R201). -/
def mayElen (i : Instr) : Bool :=
  match i with
  | .ckxor => true
  | .put8 _ => true
  | .put16be _ => true
  | .put32be => true
  | .sendblk => true
  | .sendframe => true
  | .readraw _ => true
  | _ => false

/-- The cases of a completed operation: from `s`, the instruction, and the state it leaves. -/
inductive Effect (s : State) : Instr → State → Prop where
  | elen {i : Instr} (h : mayElen i = true) : Effect s i (s.finish .elen 0x00)
  | nop : Effect s .nop (s.finish .ok 0x00)
  | ckxor (p : List Byte) (u : Bool) (hp : s.MayRead p) (hu : u = true ↔ s.HasUnwritten) :
      Effect s .ckxor ({ s.mark u with cksum := xorfold p }.finish .ok 0x00)
  | compl (b : Byte) : Effect s (.compl b) ({ s with cmpl := cpl b }.finish .ok 0x00)
  | clrbuf : Effect s .clrbuf ({ s with plen := 0 }.finish .ok 0x00)
  | append {i : Instr} (bs : List Byte) (h : appended s i = some bs) (hb : s.plen.toNat + bs.length ≤ 131070) :
      Effect s i ({ s with
        mem := Memory.writeList s.mem (0x20000 + s.plen.toNat) bs
        plen := s.plen + BitVec.ofNat 17 bs.length }.finish .ok 0x00)
  | command {i : Instr} (c : Byte) (h : commandOf i = some c) (a : List Byte) (ha : a.length ≤ 1) :
      Effect s i (({ s with cmpl := cpl c }.transmit (commandFrame c)).afterAck s.tmo a)
  | sendbyte (b : Byte) : Effect s (.sendbyte b) ((s.transmit [b]).finish .ok 0x00)
  | sendblk (p : List Byte) (u : Bool) (hp : s.MayRead p) (hu : u = true ↔ s.HasUnwritten) (h1 : 1 ≤ p.length)
      (a : List Byte) (ha : a.length ≤ 1) : Effect s .sendblk (((s.mark u).sendBlock p).afterAck s.tmo a)
  | sendframe (p : List Byte) (u : Bool) (hp : s.MayRead p) (hu : u = true ↔ s.HasUnwritten) (h1 : 1 ≤ p.length) :
      Effect s .sendframe (((s.mark u).sendBlock p).finish .ok 0x00)
  | sendaddr (a : List Byte) (ha : a.length ≤ 1) :
      Effect s .sendaddr ((s.sendBlock (be32 s.addr)).afterAck s.tmo a)
  | waitack (a : List Byte) (ha : a.length ≤ 1) : Effect s .waitack (s.afterAck s.tmo a)
  | tolerated (n : Nat) (b : Byte) (hn : n < 8) :
      Effect s .waitacktol { s with
        rxlog := s.rxlog ++ (List.replicate n ⟨1, s.tmo, s.txlog.length, []⟩ ++ [⟨1, s.tmo, s.txlog.length, [b]⟩])
        rxnext := s.rxnext.drop (n + 1), ato := if n = 0 then s.ato else BitVec.ofNat 4 n
        phase := .idle, res := ackRes [b], raw := b }
  | toleratedAll :
      Effect s .waitacktol { s with
        rxlog := s.rxlog ++ List.replicate 8 ⟨1, s.tmo, s.txlog.length, []⟩, rxnext := s.rxnext.drop 8
        ato := 8, phase := .idle, res := .ok, raw := 0x00 }
  | synchronised {i : Instr} (h : i = .handshake ∨ i = .init) (ws : List (List Byte)) (h1 : 1 ≤ ws.length)
      (h5 : ws.length ≤ 5) :
      Effect s i { s with
        txlog := s.txlog ++ List.replicate ws.length 0x7F
        rxlog := s.rxlog ++ ws.mapIdx (fun j w => ⟨1024, 1000, s.txlog.length + j + 1, w⟩)
        rxnext := s.rxnext.drop ws.length, att := BitVec.ofNat 4 ws.length
        phase := .idle, res := .ok, raw := 0x79 }
  | unsynchronised {i : Instr} (h : i = .handshake ∨ i = .init) (ws : List (List Byte)) (w : List Byte)
      (hw : w.getLast? ≠ some 0x79) :
      Effect s i { s with
        txlog := s.txlog ++ List.replicate 5 0x7F
        rxlog := s.rxlog ++ ws.mapIdx (fun j w => ⟨1024, 1000, s.txlog.length + j + 1, w⟩)
        rxnext := s.rxnext.drop 5, att := 5
        phase := .idle, res := .hsfail, raw := w.getLast?.getD 0x00 }
  | noResponse :
      Effect s .readresp { s with
        rl := 0, rcount := 0, rxlog := s.rxlog ++ [⟨1, s.tmo, s.txlog.length, []⟩], rxnext := s.rxnext.drop 1
        phase := .idle, res := .timeout, raw := 0x00 }
  | shortResponse (len : Byte) (p : List Byte) (hp : p.length < len.toNat + 1) :
      Effect s .readresp { s with
        mem := Memory.writeList s.mem 0x100 p, rl := len, rcount := BitVec.ofNat 9 p.length
        rxlog := s.rxlog ++
          [⟨1, s.tmo, s.txlog.length, [len]⟩, ⟨len.toNat + 1, s.tmo, s.txlog.length, p⟩]
        rxnext := s.rxnext.drop 2, phase := .idle, res := .timeout, raw := 0x00 }
  | response (len : Byte) (p a : List Byte) (hp : p.length = len.toNat + 1) (ha : a.length ≤ 1) :
      Effect s .readresp { s with
        mem := Memory.writeList s.mem 0x100 p, rl := len, rcount := BitVec.ofNat 9 p.length
        rxlog := s.rxlog ++
          [⟨1, s.tmo, s.txlog.length, [len]⟩, ⟨len.toNat + 1, s.tmo, s.txlog.length, p⟩, ⟨1, s.tmo, s.txlog.length, a⟩]
        rxnext := s.rxnext.drop 3, phase := .idle, res := ackRes a, raw := a.headD 0x00 }
  | readraw (n : Half) (p : List Byte) (h2 : n.toNat ≤ 256) (hp : p.length ≤ n.toNat) :
      Effect s (.readraw n) { s with
        mem := Memory.writeList s.mem 0x100 p, rl := 0, rcount := BitVec.ofNat 9 p.length
        rxlog := s.rxlog ++ [⟨n.toNat, s.tmo, s.txlog.length, p⟩], rxnext := s.rxnext.tail
        phase := .idle, res := if p.length < n.toNat then .short else .ok, raw := 0x00 }
  | control {i : Instr} (b : Byte) (h : i = .ack ∧ b = 0x79 ∨ i = .nack ∧ b = 0x1F) :
      Effect s i { s with
        rxlog := s.rxlog ++ [⟨1, s.tmo, s.txlog.length, [b]⟩], phase := .idle, res := ackRes [b], raw := b }
  | sentinel {i : Instr} (v : Half) (h : sentinelOf i = some v) :
      Effect s i { s with
        mem := Memory.writeList s.mem 0x20000 (be16 v), plen := 2, cksum := xorfold (be16 v)
        txlog := s.txlog ++ be16 v ++ [xorfold (be16 v)], phase := .idle, res := .ok, raw := 0x00 }

/-- An append has one of two effects. -/
theorem effect_append {s : State} {i : Instr} {bs : List Byte} (h : appended s i = some bs) (he : mayElen i = true) :
    Effect s i (s.appendPayload bs) := by
  by_cases hb : s.plen.toNat + bs.length ≤ 131070
  · rw [State.appendPayload_ok hb]
    exact .append bs h hb
  · rw [State.appendPayload_elen (by omega)]
    exact .elen he

/-- A command frame has one effect. -/
theorem effect_command {s : State} {i : Instr} {c : Byte} (h : commandOf i = some c) : Effect s i (s.sendCommand c) := by
  rw [State.sendCommand, State.ackDetect_eq]
  exact .command c h _ (State.answer_length _ _ _)

/-- A handshake has one of two effects. -/
theorem effect_handshake {s : State} {i : Instr} (h : i = .handshake ∨ i = .init) : Effect s i s.performHandshake := by
  obtain ⟨ws, rs, _, h1, h5, hrs, _, w, _, hc⟩ := s.handshakeAttempts_cases 5 0x00 (le_refl _) (by omega)
  rcases hc with ⟨_, e⟩ | ⟨_, hw, e⟩
  · rw [State.performHandshake, Config.params_hsAttempts, e, hrs, Nat.sub_self, Nat.zero_add]
    exact .synchronised h ws h1 h5
  · rw [State.performHandshake, Config.params_hsAttempts, e, hrs]
    exact .unsynchronised h ws w hw

/-- A control byte of the PEER has one effect. -/
theorem effect_control {s : State} {i : Instr} {b : Byte} (h : i = .ack ∧ b = 0x79 ∨ i = .nack ∧ b = 0x1F) :
    Effect s i (s.takeControl b) := by
  have e : s.takeControl b = { s with
      rxlog := s.rxlog ++ [⟨1, s.tmo, s.txlog.length, [b]⟩], phase := .idle, res := ackRes [b], raw := b } := by
    simp [State.takeControl, State.ackDetect_eq, State.afterAck, State.answer, State.peerSends]
  rw [e]
  exact .control b h

/-- Every operation that answers a next state has one of the effects listed. -/
theorem exec_effect {i : Instr} {s t : State} (h : exec i s = .next t) : Effect s i t := by
  cases i <;> simp only [exec] at h
  case nop => cases h; exact .nop
  case ckxor =>
    rcases s.withPayload_cases 0 (fun t p => { t with cksum := xorfold p }.finish .ok 0x00) with
      ⟨_, e⟩ | ⟨_, _, p, u, hp, hu, e⟩ <;> simp only [execCkxor, e] at h <;> cases h
    · exact .elen rfl
    · exact .ckxor p u hp hu
  case compl b => cases h; exact .compl b
  case clrbuf => cases h; exact .clrbuf
  case put8 b => cases h; exact effect_append rfl rfl
  case put16be v => cases h; exact effect_append rfl rfl
  case put32be => cases h; exact effect_append rfl rfl
  case sendcmd c => cases h; exact effect_command rfl
  case sendbyte b => cases h; exact .sendbyte b
  case sendblk =>
    rcases s.withPayload_cases 1 (fun t p => (t.sendBlock p).ackDetect t.tmo) with
      ⟨_, e⟩ | ⟨h1, _, p, u, hp, hu, e⟩ <;> simp only [execSendblk, e] at h <;> cases h
    · exact .elen rfl
    · rw [State.ackDetect_eq]
      exact .sendblk p u hp hu (by rw [hp.1]; exact h1) _ (State.answer_length _ _ _)
  case sendframe =>
    rcases s.withPayload_cases 1 (fun t p => (t.sendBlock p).finish .ok 0x00) with
      ⟨_, e⟩ | ⟨h1, _, p, u, hp, hu, e⟩ <;> simp only [execSendframe, State.sendFrame, e] at h <;> cases h
    · exact .elen rfl
    · exact .sendframe p u hp hu (by rw [hp.1]; exact h1)
  case sendaddr =>
    simp only [execSendaddr, State.ackDetect_eq] at h
    cases h
    exact .sendaddr _ (State.answer_length _ _ _)
  case waitack =>
    simp only [execWaitack, State.ackDetect_eq] at h
    cases h
    exact .waitack _ (State.answer_length _ _ _)
  case waitacktol =>
    cases h
    obtain ⟨rs, _, ⟨n, b, hn, hrs, e⟩ | ⟨hrs, e⟩⟩ := s.tolerantReads_cases 8 (le_refl _)
    · rw [Config.params_tolReads, e, hrs, Nat.sub_self, Nat.zero_add]
      exact .tolerated n b hn
    · rw [Config.params_tolReads, e, hrs]
      exact .toleratedAll
  case handshake => cases h; exact effect_handshake (.inl rfl)
  case readresp =>
    cases h
    obtain ⟨rs, hr, hx, ⟨hrs, e⟩ | ⟨len, p, hp, hrs, hm, e⟩ | ⟨len, p, a, hp, hrs, hm, e⟩⟩ := s.readResponse_cases
    · rw [e, hx, hrs]
      exact .noResponse
    · rw [e, hx, hrs, hm]
      exact .shortResponse len p hp
    · have ha := (hr 2 ⟨1, s.tmo, s.txlog.length, a⟩ (by rw [hrs]; rfl)).1
      rw [e, hx, hrs, hm]
      exact .response len p a hp ha
  case readraw n =>
    cases h
    by_cases hn : n.toNat < 1 ∨ 256 < n.toNat
    · rw [State.readRaw_elen hn]
      exact .elen rfl
    · rw [State.readRaw_eq (by omega) (by omega)]
      exact .readraw n _ (by omega) (State.answer_length _ _ _)
  case cmdGet => cases h; exact effect_command rfl
  case cmdGetId => cases h; exact effect_command rfl
  case cmdRead => cases h; exact effect_command rfl
  case cmdGo => cases h; exact effect_command rfl
  case cmdWrite => cases h; exact effect_command rfl
  case cmdErase => cases h; exact effect_command rfl
  case cmdEraseExtended => cases h; exact effect_command rfl
  case init => cases h; exact effect_handshake (.inr rfl)
  case ack => cases h; exact effect_control (.inl ⟨rfl, rfl⟩)
  case nack => cases h; exact effect_control (.inr ⟨rfl, rfl⟩)
  case sentinelMass =>
    simp only [execSentinelMass, State.sendSentinel_eq] at h
    cases h
    exact .sentinel _ rfl
  case sentinelBank1 =>
    simp only [execSentinelBank1, State.sendSentinel_eq] at h
    cases h
    exact .sentinel _ rfl
  case sentinelBank2 =>
    simp only [execSentinelBank2, State.sendSentinel_eq] at h
    cases h
    exact .sentinel _ rfl

/-- R200: every completed operation leaves the machine IDLE. -/
theorem effect_idle {s t : State} {i : Instr} (h : Effect s i t) : t.phase = .idle := by cases h <;> rfl

end Sys2Proof.Machine
end

