-- ==== Sys2Proof/Laws/PerInstr.lean ====
section
/-! SUPPORT. A fact about every instruction as syntax, one lemma per constructor: its encoding passes every check of
WellFormed (R71 to R75, R78, R80). -/

namespace Sys2Proof.Laws.EncodingWellFormed

open Sys2Proof.Machine

/-- The request an instruction is encoded as is well formed. -/
def Statement (i : Instr) : Prop := WellFormed.request (encode i) = true

theorem nop : Statement .nop := by unfold Statement; decide
theorem ckxor : Statement .ckxor := by unfold Statement; decide
theorem compl (b : Byte) : Statement (.compl b) := by
  simp [Statement, encode, WellFormed.request, WellFormed.opreqWord, WellFormed.opcAssigned, WellFormed.usesImm8,
    WellFormed.usesImm16]
theorem clrbuf : Statement .clrbuf := by unfold Statement; decide
theorem put8 (b : Byte) : Statement (.put8 b) := by
  simp [Statement, encode, WellFormed.request, WellFormed.opreqWord, WellFormed.opcAssigned, WellFormed.usesImm8,
    WellFormed.usesImm16]
theorem put16be (v : Half) : Statement (.put16be v) := by
  simp [Statement, encode, WellFormed.request, WellFormed.opreqWord, WellFormed.opcAssigned, WellFormed.usesImm8,
    WellFormed.usesImm16]
theorem put32be : Statement .put32be := by unfold Statement; decide
theorem sendcmd (b : Byte) : Statement (.sendcmd b) := by
  simp [Statement, encode, WellFormed.request, WellFormed.opreqWord, WellFormed.opcAssigned, WellFormed.usesImm8,
    WellFormed.usesImm16]
theorem sendbyte (b : Byte) : Statement (.sendbyte b) := by
  simp [Statement, encode, WellFormed.request, WellFormed.opreqWord, WellFormed.opcAssigned, WellFormed.usesImm8,
    WellFormed.usesImm16]
theorem sendblk : Statement .sendblk := by unfold Statement; decide
theorem sendframe : Statement .sendframe := by unfold Statement; decide
theorem sendaddr : Statement .sendaddr := by unfold Statement; decide
theorem waitack : Statement .waitack := by unfold Statement; decide
theorem waitacktol : Statement .waitacktol := by unfold Statement; decide
theorem handshake : Statement .handshake := by unfold Statement; decide
theorem readresp : Statement .readresp := by unfold Statement; decide
theorem readraw (v : Half) : Statement (.readraw v) := by
  simp [Statement, encode, WellFormed.request, WellFormed.opreqWord, WellFormed.opcAssigned, WellFormed.usesImm8,
    WellFormed.usesImm16]
theorem cmdGet : Statement .cmdGet := by unfold Statement; decide
theorem cmdGetId : Statement .cmdGetId := by unfold Statement; decide
theorem cmdRead : Statement .cmdRead := by unfold Statement; decide
theorem cmdGo : Statement .cmdGo := by unfold Statement; decide
theorem cmdWrite : Statement .cmdWrite := by unfold Statement; decide
theorem cmdErase : Statement .cmdErase := by unfold Statement; decide
theorem cmdEraseExtended : Statement .cmdEraseExtended := by unfold Statement; decide
theorem init : Statement .init := by unfold Statement; decide
theorem ack : Statement .ack := by unfold Statement; decide
theorem nack : Statement .nack := by unfold Statement; decide
theorem sentinelMass : Statement .sentinelMass := by unfold Statement; decide
theorem sentinelBank1 : Statement .sentinelBank1 := by unfold Statement; decide
theorem sentinelBank2 : Statement .sentinelBank2 := by unfold Statement; decide

end Sys2Proof.Laws.EncodingWellFormed
end

