-- ==== Sys2Proof/Laws/Step.lean ====
section
/-! SUPPORT. Everything a step that answers a next state can do, said once (`Turn`, `step_turn`), and the small laws of the
HOST's side: which accesses are admitted, and how the fields of STATUS and RINFO read. -/

namespace Sys2Proof.Machine

/-! ### Admitted accesses -/

/-- The four kinds of access: a word, a cell of RBUF, a cell of PBUF, the two reserved bytes; and every other. -/
theorem target_cases (off bits : Nat) :
    (bits = 32 ∧ off % 4 = 0 ∧ off ≤ 0xFC ∧ target off bits = some (wordTarget off)) ∨
    (bits = 8 ∧ 0x100 ≤ off ∧ off ≤ 0x1FF ∧ target off bits = some (.rbuf off)) ∨
    (bits = 8 ∧ 0x20000 ≤ off ∧ off ≤ 0x3FFFD ∧ target off bits = some (.pbuf off)) ∨
    (bits = 8 ∧ 0x3FFFE ≤ off ∧ off ≤ 0x3FFFF ∧ target off bits = some .reserved) ∨
    (¬ Admitted off bits ∧ target off bits = none) := by
  have hr : rbufOff 0 = 0x100 ∧ rbufOff Config.params.rbufSize = 0x200 := ⟨rfl, rfl⟩
  have hp : pbufOff 0 = 0x20000 ∧ pbufOff Config.params.pMax = 0x3FFFE := ⟨rfl, rfl⟩
  unfold target
  by_cases h1 : bits = 32 ∧ off % 4 = 0 ∧ off < 0x100
  · exact .inl ⟨h1.1, h1.2.1, by omega, if_pos h1⟩
  rw [if_neg h1]
  by_cases h2 : bits = 8 ∧ rbufOff 0 ≤ off ∧ off < rbufOff Config.params.rbufSize
  · exact .inr (.inl ⟨h2.1, by omega, by omega, if_pos h2⟩)
  rw [if_neg h2]
  by_cases h3 : bits = 8 ∧ pbufOff 0 ≤ off ∧ off < pbufOff Config.params.pMax
  · exact .inr (.inr (.inl ⟨h3.1, by omega, by omega, if_pos h3⟩))
  rw [if_neg h3]
  by_cases h4 : bits = 8 ∧ 0x3FFFE ≤ off ∧ off < 0x40000
  · exact .inr (.inr (.inr (.inl ⟨h4.1, by omega, by omega, if_pos h4⟩)))
  rw [if_neg h4]
  exact .inr (.inr (.inr (.inr ⟨by rw [Admitted]; omega, rfl⟩)))

/-- An access reaches something exactly when R53 admits it. -/
theorem target_ne_none (off bits : Nat) : target off bits ≠ none ↔ Admitted off bits := by
  rcases target_cases off bits with ⟨h1, h2, h3, e⟩ | ⟨h1, h2, h3, e⟩ | ⟨h1, h2, h3, e⟩ | ⟨h1, h2, h3, e⟩ | ⟨h, e⟩
  all_goals simp only [e, ne_eq, reduceCtorEq, not_false_eq_true, true_iff, not_true_eq_false, false_iff]
  all_goals first | exact h | (rw [Admitted]; omega)

theorem target_of_admitted {off bits : Nat} (h : Admitted off bits) : ∃ t, target off bits = some t :=
  Option.ne_none_iff_exists'.mp ((target_ne_none off bits).mpr h)

theorem target_of_not_admitted {off bits : Nat} (h : ¬ Admitted off bits) : target off bits = none := by
  by_contra hn
  exact h ((target_ne_none off bits).mp hn)

/-- A word access below 0x100 reaches the register at its offset. -/
theorem target_word {off : Nat} (h4 : off % 4 = 0) (h : off ≤ 0xFC) : target off 32 = some (wordTarget off) := by
  have : off < 0x100 := by omega
  simp [target, h4, this]

/-- A word register is no buffer cell. -/
theorem wordTarget_not_cell (off a : Nat) : wordTarget off ≠ .pbuf a ∧ wordTarget off ≠ .rbuf a := by
  by_cases h : off ≤ 0x1C
  · interval_cases off <;> exact ⟨Target.noConfusion, Target.noConfusion⟩
  · simp only [wordTarget]
    repeat rw [if_neg (by omega)]
    exact ⟨Target.noConfusion, Target.noConfusion⟩

/-- Reading a word register is no model fault. -/
theorem wordTarget_written (off : Nat) (m : Memory) : (wordTarget off).unwritten m = false := by
  cases h : wordTarget off
  case rbuf a => exact absurd h (wordTarget_not_cell off a).2
  case pbuf a => exact absurd h (wordTarget_not_cell off a).1
  all_goals rfl

/-- What a target that is a cell says of the access. -/
theorem target_pbuf {off bits a : Nat} (h : target off bits = some (.pbuf a)) :
    bits = 8 ∧ a = off ∧ 0x20000 ≤ off ∧ off ≤ 0x3FFFD := by
  rcases target_cases off bits with ⟨_, _, _, e⟩ | ⟨_, _, _, e⟩ | ⟨h1, h2, h3, e⟩ | ⟨_, _, _, e⟩ | ⟨_, e⟩
  all_goals rw [e] at h
  · have := wordTarget_not_cell off a
    simp_all
  all_goals simp at h
  exact ⟨h1, h.symm, h2, h3⟩

/-! ### Reads while BUSY -/

/-- A number brought into a range is in it. -/
theorem upTo_le (max x : Nat) : upTo max x ≤ max := Nat.lt_succ_iff.1 (Nat.mod_lt x (Nat.succ_pos max))

/-- Whether one of these operations is latched, as a fact about the decoder. -/
theorem latchedIn_iff {r : Request} {ops : List Instr} : latchedIn r ops = true ↔ ∃ i ∈ ops, decode r = .ok i := by
  unfold latchedIn
  cases decode r <;> simp

/-- R24: ATO while BUSY is as it was left, unless WAITACKTOL runs. -/
theorem State.busyAto_kept {r : Request} (s : State) (free : Word) (h : decode r ≠ .ok .waitacktol) :
    s.busyAto r free = s.ato := if_neg (by simpa [latchedIn_iff] using h)

/-- R24: ATO while BUSY never passes 8 while WAITACKTOL runs. -/
theorem State.busyAto_le {r : Request} (s : State) (free : Word) (h : decode r = .ok .waitacktol) :
    (s.busyAto r free).toNat ≤ 8 := by
  rw [State.busyAto, if_pos (by simpa [latchedIn_iff] using h), BitVec.toNat_ofNat]
  exact (Nat.mod_le _ _).trans (upTo_le 8 _)

/-- R24: ATT while BUSY is as it was left, unless HANDSHAKE runs. -/
theorem State.busyAtt_kept {r : Request} (s : State) (free : Word) (h : decode r ≠ .ok .handshake)
    (hi : decode r ≠ .ok .init) : s.busyAtt r free = s.att := if_neg (by simpa [latchedIn_iff] using ⟨h, hi⟩)

/-- R24: ATT while BUSY never passes 5 while HANDSHAKE runs. -/
theorem State.busyAtt_le {r : Request} (s : State) (free : Word) (h : decode r = .ok .handshake ∨ decode r = .ok .init) :
    (s.busyAtt r free).toNat ≤ 5 := by
  rw [State.busyAtt, if_pos (by simpa [latchedIn_iff] using h), BitVec.toNat_ofNat]
  exact (Nat.mod_le _ _).trans (upTo_le 5 _)

/-! ### The fields of STATUS and RINFO -/

theorem extract_append_low {m n k w : Nat} (a : BitVec m) (b : BitVec n) (h : k + w ≤ n) :
    (a ++ b).extractLsb' k w = b.extractLsb' k w := by
  ext i hi
  simp only [BitVec.getElem_extractLsb', BitVec.getLsbD_append]
  rw [if_pos (by omega)]

theorem extract_append_high {m n k w : Nat} (a : BitVec m) (b : BitVec n) (h : n ≤ k) :
    (a ++ b).extractLsb' k w = a.extractLsb' (k - n) w := by
  ext i hi
  simp only [BitVec.getElem_extractLsb', BitVec.getLsbD_append]
  rw [if_neg (by omega), show k + i - n = k - n + i by omega]

/-- R24: every field of STATUS stands where the rule puts it, and the reserved bits are 0. -/
theorem statusBits_fields (att ato : BitVec 4) (raw : Byte) (res : Res) (werr busy : Bool) :
    (statusBits att ato raw res werr busy).extractLsb' 0 1 = BitVec.ofBool busy ∧
    (statusBits att ato raw res werr busy).extractLsb' 1 1 = BitVec.ofBool werr ∧
    (statusBits att ato raw res werr busy).extractLsb' 2 2 = 0 ∧
    (statusBits att ato raw res werr busy).extractLsb' 4 4 = res.code ∧
    (statusBits att ato raw res werr busy).extractLsb' 8 8 = raw ∧
    (statusBits att ato raw res werr busy).extractLsb' 16 4 = ato ∧
    (statusBits att ato raw res werr busy).extractLsb' 20 4 = att ∧
    (statusBits att ato raw res werr busy).extractLsb' 24 8 = 0 := by
  change BitVec 8 at raw
  unfold statusBits
  dsimp only [Byte, Config.widths]
  refine ⟨?_, ?_, ?_, ?_, ?_, ?_, ?_, ?_⟩ <;>
    simp (disch := omega) only [extract_append_low, extract_append_high] <;> simp

/-- R33: RINFO as a number. -/
theorem rinfoBits_toNat (a : BitVec 9) (b : Byte) : (rinfoBits a b).toNat = a.toNat * 0x100 + b.toNat := by
  unfold rinfoBits
  rw [BitVec.toNat_append, BitVec.toNat_append]
  have h0 : (0 : BitVec 15).toNat = 0 := rfl
  rw [h0, Nat.zero_shiftLeft, Nat.zero_or]
  rw [← Nat.shiftLeft_add_eq_or_of_lt b.isLt, Nat.shiftLeft_eq]
  rfl

/-- R35, R36: the offsets of the buffers' cells, in the spec's numbers. -/
theorem isCell_iff (a : Nat) : isCell a = true ↔ (0x100 ≤ a ∧ a ≤ 0x1FF) ∨ (0x20000 ≤ a ∧ a ≤ 0x3FFFD) := by
  have hr : rbufOff 0 = 0x100 ∧ rbufOff Config.params.rbufSize = 0x200 := ⟨rfl, rfl⟩
  have hp : pbufOff 0 = 0x20000 ∧ pbufOff Config.params.pMax = 0x3FFFE := ⟨rfl, rfl⟩
  simp only [isCell, hr, hp, Bool.or_eq_true, Bool.and_eq_true, decide_eq_true_eq]
  omega

/-! ### The step -/

/-- The cases of a step that answers a next state. -/
inductive Turn (s : State) : State → Prop where
  | ran {t : State} (r : Request) (i : Instr) (hb : s.phase = .busy r) (hd : decode r = .ok i)
      (hi : s.inputs = [] ∨ (∃ rest, s.inputs = .wait :: rest) ∨ ∃ q rest, s.inputs = .expect q :: rest)
      (he : exec i s = .next t) : Turn s t
  | illegal (r : Request) (hb : s.phase = .busy r)
      (hi : s.inputs = [] ∨ (∃ rest, s.inputs = .wait :: rest) ∨ ∃ q rest, s.inputs = .expect q :: rest) :
      Turn s s.raiseIllegal
  | stored (off bits : Nat) (v : Word) (tg : Target) (rest : List Input) (hb : s.phase = .idle)
      (hi : s.inputs = .write off bits v :: rest) (ht : target off bits = some tg) :
      Turn s ({ s with inputs := rest }.storeTarget tg v)
  | dropped (off bits : Nat) (v : Word) (rest : List Input) (hb : s.isBusy = true)
      (hi : s.inputs = .write off bits v :: rest) : Turn s { s with werr := true, inputs := rest }
  | looked (off bits : Nat) (v : Word) (tg : Target) (rest : List Input) (hi : s.inputs = .read off bits :: rest)
      (ht : target off bits = some tg) :
      Turn s { s.mark (tg.unwritten s.mem) with inputs := rest, readlog := s.readlog ++ [(off, v)] }
  | waited (rest : List Input) (hb : s.phase = .idle) (hi : s.inputs = .wait :: rest) : Turn s { s with inputs := rest }
  | expected (q : Res) (rest : List Input) (hb : s.phase = .idle) (hi : s.inputs = .expect q :: rest) :
      Turn s ({ s with inputs := rest }.expectResult q)
  | resetInput (rest : List Input) (hi : s.inputs = .reset :: rest) : Turn s { s with inputs := rest }.platformReset
  | idle (hb : s.phase = .idle) (hi : s.inputs = []) : Turn s s

/-- The latched request runs, in one of two ways. -/
theorem runRequest_turn {s t : State} {r : Request} (hb : s.phase = .busy r)
    (hi : s.inputs = [] ∨ (∃ rest, s.inputs = .wait :: rest) ∨ ∃ q rest, s.inputs = .expect q :: rest)
    (h : s.runRequest r = .next t) : Turn s t := by
  unfold State.runRequest at h
  split at h
  · exact .ran r _ hb ‹_› hi h
  · cases h
    exact .illegal r hb hi
  · cases h

/-- An entry of the outside world takes effect, in one of the ways listed. -/
theorem input_turn {s t : State} {i : Input} {rest : List Input} (hi : s.inputs = i :: rest)
    (hb : s.phase = .idle ∨ i ≠ .wait ∧ ∀ q, i ≠ .expect q) (h : { s with inputs := rest }.input i = .next t) :
    Turn s t := by
  have busy (r : Request) (hp : s.phase = .busy r) : s.isBusy = true := by simp [State.isBusy, hp]
  cases i with
  | write off bits v =>
    simp only [State.input, State.hostWrite] at h
    split at h
    · cases h
    · split at h <;> cases h
      · exact .stored off bits v _ rest ‹_› hi ‹_›
      · exact .dropped off bits v rest (busy _ ‹_›) hi
  | read off bits =>
    simp only [State.input, State.hostRead] at h
    split at h
    · cases h
    · cases h
      exact .looked off bits _ _ rest hi ‹_›
  | wait =>
    cases h
    exact .waited rest (hb.resolve_right (fun c => c.1 rfl)) hi
  | expect q =>
    cases h
    exact .expected q rest (hb.resolve_right (fun c => c.2 q rfl)) hi
  | reset =>
    cases h
    exact .resetInput rest hi

/-- Who moves, case by case. -/
theorem State.mover_cases (s : State) :
    (∃ r, s.phase = .busy r ∧ s.mover = .framer r ∧
      (s.inputs = [] ∨ (∃ rest, s.inputs = .wait :: rest) ∨ ∃ q rest, s.inputs = .expect q :: rest)) ∨
    (∃ i rest, s.inputs = i :: rest ∧ s.mover = .outside i rest ∧
      (s.phase = .idle ∨ i ≠ .wait ∧ ∀ q, i ≠ .expect q)) ∨
    (s.phase = .idle ∧ s.inputs = [] ∧ s.mover = .nobody) := by
  unfold State.mover
  rcases s.phase with _ | r <;> rcases s.inputs with _ | ⟨i, rest⟩
  · exact .inr (.inr ⟨rfl, rfl, rfl⟩)
  · exact .inr (.inl ⟨i, rest, rfl, rfl, .inl rfl⟩)
  · exact .inl ⟨r, rfl, rfl, .inl rfl⟩
  · cases i
    case wait => exact .inl ⟨r, rfl, rfl, .inr (.inl ⟨rest, rfl⟩)⟩
    case expect q => exact .inl ⟨r, rfl, rfl, .inr (.inr ⟨q, rest, rfl⟩)⟩
    all_goals exact .inr (.inl ⟨_, rest, rfl, rfl, .inr ⟨Input.noConfusion, fun _ => Input.noConfusion⟩⟩)

/-- Every step that answers a next state is one of the cases listed. -/
theorem step_turn {s t : State} (h : step s = .next t) : Turn s t := by
  unfold step State.move at h
  rcases s.mover_cases with ⟨r, hb, hm, hi⟩ | ⟨i, rest, hi, hm, hb⟩ | ⟨hb, hi, hm⟩ <;> rw [hm] at h
  · exact runRequest_turn hb hi h
  · exact input_turn hi hb h
  · cases h
    exact .idle hb hi

/-- A HOST read takes effect at once, in either phase. -/
theorem step_read {s : State} {off bits : Nat} {rest : List Input} (hi : s.inputs = .read off bits :: rest) :
    step s = { s with inputs := rest }.hostRead off bits := by
  unfold step State.move
  rcases s.mover_cases with ⟨r, _, _, h⟩ | ⟨i, rest, h, hm, _⟩ | ⟨_, h, _⟩ <;> rw [hi] at h
  · simp at h
  · cases h
    rw [hm]
    rfl
  · cases h

/-- A HOST write takes effect at once, in either phase. -/
theorem step_write {s : State} {off bits : Nat} {v : Word} {rest : List Input}
    (hi : s.inputs = .write off bits v :: rest) : step s = { s with inputs := rest }.hostWrite off bits v := by
  unfold step State.move
  rcases s.mover_cases with ⟨r, _, _, h⟩ | ⟨i, rest, h, hm, _⟩ | ⟨_, h, _⟩ <;> rw [hi] at h
  · simp at h
  · cases h
    rw [hm]
    rfl
  · cases h

end Sys2Proof.Machine
end

