-- ==== Sys2Proof/Machine/Pseudo.lean ====
section
/-! DEFINITION. The HOST's programs: the line items of R85 and the pseudo-operations R90 to R98, as lists of inputs. They
are no FRAMER operations (R5); the FRAMER sees only the writes. -/

namespace Sys2Proof.Machine.Pseudo

open Sys2Proof

/-- R85 `MNEMONIC imm`: one OPREQ write and the wait for its finish. -/
def op (i : Instr) : List Input := [.write 0x00 32 (encodeOpreq i), .wait]

/-- R85 `ADDR := v`. -/
def setAddr (a : Word) : List Input := [.write 0x08 32 a]

/-- R85 `PBUF[i] := b`. -/
def setPbuf (i : Nat) (b : Byte) : List Input := [.write (0x20000 + i) 8 (b.setWidth 32)]

/-- R85 `PLEN := v`. -/
def setPlen (n : Nat) : List Input := [.write 0x0C 32 (BitVec.ofNat 32 n)]

/-- A later step of a pseudo-operation: only after RES = OK (section 5 of 30_encoding.md, R243).

DEDUCED (log 17, safe): the implicit `expect RES=OK` stands before each operation after the first. -/
def thenOp (i : Instr) : List Input := .expect .ok :: op i

/-- R90 IDENTIFY. -/
def identify : List Input := op (.sendcmd Config.params.get) ++ thenOp .readresp

/-- R90: the HOST's check of the response, RCOUNT >= 8 and RBUF[7] = 0x44. -/
def identifyAccepts (rcount : BitVec 9) (rbuf7 : Byte) : Bool :=
  decide (8 ≤ rcount.toNat) && rbuf7 == Config.params.eraseExtended

/-- R91 GETID. -/
def getId : List Input := op (.sendcmd Config.params.getId) ++ thenOp .readresp

/-- R92 GO a. -/
def go (a : Word) : List Input :=
  op (.sendcmd Config.params.go) ++ [.expect .ok] ++ setAddr a ++ op .sendaddr

/-- R93 READMEM a, n, for 1 <= n <= 256.

DESIGN CHOICE (log 18, unsafe): the spec gives another n no meaning; here n - 1 is cut to 8 bits, so n = 0 sends 0xFF, and n is
cut to 16 bits. -/
def readMem (a : Word) (n : Nat) : List Input :=
  op (.sendcmd Config.params.read) ++ [.expect .ok] ++ setAddr a ++ op .sendaddr ++
    thenOp (.sendcmd (BitVec.ofNat 8 n - 1)) ++ thenOp (.readraw (BitVec.ofNat 16 n))

/-- R94 WRITEMEM a, d, for 1 to 256 data bytes; the payload is that of R81.

DESIGN CHOICE (log 18, unsafe): the spec gives another length n no meaning; here n - 1 is cut to 8 bits, so n = 0 puts 0xFF. -/
def writeMem (a : Word) (d : List Byte) : List Input :=
  op (.sendcmd Config.params.write) ++ [.expect .ok] ++ setAddr a ++ op .sendaddr ++ thenOp .clrbuf ++
    thenOp (.put8 (BitVec.ofNat 8 d.length - 1)) ++ d.flatMap (fun b => thenOp (.put8 b)) ++ thenOp .sendblk

/-- R95 EERASE_LIST p, for 1 to 65533 pages (C7 of 90_conflicts.md); the payload is that of R82.

DESIGN CHOICE (log 18, unsafe): the spec makes no claim about another count k (D36); here k - 1 is cut to 16 bits, so k = 0 has
the count field 0xFFFF that C7 computes. -/
def eraseList (p : List Half) : List Input :=
  op (.sendcmd Config.params.eraseExtended) ++ thenOp .clrbuf ++ thenOp (.put16be (BitVec.ofNat 16 p.length - 1)) ++
    p.flatMap (fun v => thenOp (.put16be v)) ++ thenOp .sendblk

/-- R96 EERASE_RANGE first, count.

DESIGN CHOICE (log 18, unsafe): past 0xFFFF the page indices wrap modulo 2^16; the spec gives such a range no meaning. -/
def eraseRange (first : Half) (count : Nat) : List Input :=
  eraseList ((List.range count).map (fun i => first + BitVec.ofNat 16 i))

/-- R97 EERASE_SENTINEL s, for s one of 0xFFFF, 0xFFFE and 0xFFFD.

DESIGN CHOICE (log 18, unsafe): the spec gives another value no meaning; here it has the same expansion. -/
def eraseSentinel (v : Half) : List Input :=
  op (.sendcmd Config.params.eraseExtended) ++ thenOp .clrbuf ++ thenOp (.put16be v) ++ thenOp .sendframe ++
    thenOp .waitacktol

/-- R98 SYNC. -/
def sync : List Input := op .handshake ++ [.expect .ok]

end Sys2Proof.Machine.Pseudo
end

