-- ==== Sys2Proof/Tests/Slice0.lean ====
section
/-! SUPPORT. Tests. The expected results are those of spec/95_test_vectors.md (named V-...), of the examples and corner
cases of the operations' rules, or words and frames written out by hand from the encoding rules; and, for every obligation
with hypotheses, a concrete case that meets them. -/

namespace Sys2Proof.Tests

open Sys2Proof Sys2Proof.Machine

/-! ### Small states -/

/-- The reset state of a machine whose PEER will give these answers. -/
def answering (rx : List (List Byte)) : State := { State.reset with rxnext := rx }

/-- The reset state with this payload in PBUF. -/
def holding (p : List Byte) : State :=
  { State.reset with mem := Memory.writeList [] 0x20000 p, plen := BitVec.ofNat 17 p.length }

/-- The reset state with this in PLEN, whatever PBUF holds. -/
def ofLength (n : Nat) : State := { State.reset with plen := BitVec.ofNat 17 n }

/-- The reset state of a machine to which this is done next. -/
def doing (xs : List Input) : State := { State.reset with inputs := xs }

/-- What a next state satisfies; false of a fault and of a refusal. -/
def after (o : Result) (p : State → Bool) : Bool :=
  match o with
  | .next t => p t
  | _ => false

/-- The cells from an offset on. -/
def cells (m : Memory) (a n : Nat) : List (Option Byte) := (List.range n).map (fun i => Memory.read m (a + i))

/-! ### Well-formed requests: each check refuses an ill-formed one -/

theorem test_unassigned_opc_is_ill_formed : WellFormed.request (.opreq 0x00000003) = false := by decide
theorem test_unused_imm8_is_ill_formed : WellFormed.request (.opreq 0x00000100) = false := by decide
theorem test_unused_imm16_is_ill_formed : WellFormed.request (.opreq 0xFFFF4410) = false := by decide
theorem test_wrong_complement_is_ill_formed : WellFormed.request (.frame [0x44, 0xBA]) = false := by decide
theorem test_unknown_command_is_ill_formed : WellFormed.request (.frame [0x45, 0xBA]) = false := by decide
theorem test_unknown_control_byte_is_ill_formed : WellFormed.request (.frame [0x7A]) = false := by decide
theorem test_wrong_trailer_is_ill_formed : WellFormed.request (.frame [0xFF, 0xFE, 0x00]) = false := by decide
theorem test_unknown_sentinel_is_ill_formed : WellFormed.request (.frame [0xFF, 0xFC, 0x03]) = false := by decide
theorem test_sentinel_high_byte_is_ill_formed : WellFormed.request (.frame [0x00, 0xFF, 0xFF]) = false := by decide
theorem test_longer_frame_is_ill_formed : WellFormed.request (.frame [0x44, 0xBB, 0x00, 0x00]) = false := by decide

/-! ### Decoding: every row of the opcode table, from bits written out by hand from R70 to R72, R75, R78 and R80 -/

theorem test_decode_nop : decode (.opreq 0xABCDEF00) = .ok .nop := by decide
theorem test_decode_ckxor : decode (.opreq 0xABCDEF01) = .ok .ckxor := by decide
theorem test_decode_compl : decode (.opreq 0xABCD4402) = .ok (.compl 0x44) := by decide
theorem test_decode_clrbuf : decode (.opreq 0x00000008) = .ok .clrbuf := by decide
theorem test_decode_put8 : decode (.opreq 0x0000DE09) = .ok (.put8 0xDE) := by decide
theorem test_decode_put16be : decode (.opreq 0xFFFE000A) = .ok (.put16be 0xFFFE) := by decide
theorem test_decode_put32be : decode (.opreq 0x0000000B) = .ok .put32be := by decide
theorem test_decode_sendcmd : decode (.opreq 0x00004410) = .ok (.sendcmd 0x44) := by decide
theorem test_decode_sendcmd_ignores_imm16 : decode (.opreq 0xFFFF4410) = .ok (.sendcmd 0x44) := by decide
theorem test_decode_sendbyte : decode (.opreq 0x00007F11) = .ok (.sendbyte 0x7F) := by decide
theorem test_decode_sendblk : decode (.opreq 0x00000018) = .ok .sendblk := by decide
theorem test_decode_sendframe : decode (.opreq 0x00000019) = .ok .sendframe := by decide
theorem test_decode_sendaddr : decode (.opreq 0x0000001A) = .ok .sendaddr := by decide
theorem test_decode_waitack : decode (.opreq 0x00000020) = .ok .waitack := by decide
theorem test_decode_waitacktol : decode (.opreq 0x00000021) = .ok .waitacktol := by decide
theorem test_decode_handshake : decode (.opreq 0x00000022) = .ok .handshake := by decide
theorem test_decode_readresp : decode (.opreq 0x00000030) = .ok .readresp := by decide
theorem test_decode_readraw : decode (.opreq 0x01000031) = .ok (.readraw 256) := by decide
theorem test_decode_cmd_get : decode (.frame [0x00, 0xFF]) = .ok .cmdGet := by decide
theorem test_decode_cmd_get_id : decode (.frame [0x02, 0xFD]) = .ok .cmdGetId := by decide
theorem test_decode_cmd_read : decode (.frame [0x11, 0xEE]) = .ok .cmdRead := by decide
theorem test_decode_cmd_go : decode (.frame [0x21, 0xDE]) = .ok .cmdGo := by decide
theorem test_decode_cmd_write : decode (.frame [0x31, 0xCE]) = .ok .cmdWrite := by decide
theorem test_decode_cmd_erase : decode (.frame [0x43, 0xBC]) = .ok .cmdErase := by decide
theorem test_decode_cmd_erase_extended : decode (.frame [0x44, 0xBB]) = .ok .cmdEraseExtended := by decide
theorem test_decode_init : decode (.frame [0x7F]) = .ok .init := by decide
theorem test_decode_ack : decode (.frame [0x79]) = .ok .ack := by decide
theorem test_decode_nack : decode (.frame [0x1F]) = .ok .nack := by decide
theorem test_decode_sentinel_mass : decode (.frame [0xFF, 0xFF, 0x00]) = .ok .sentinelMass := by decide
theorem test_decode_sentinel_bank1 : decode (.frame [0xFF, 0xFE, 0x01]) = .ok .sentinelBank1 := by decide
theorem test_decode_sentinel_bank2 : decode (.frame [0xFF, 0xFD, 0x02]) = .ok .sentinelBank2 := by decide
theorem test_decode_unassigned : decode (.opreq 0x000000FF) = .error (.unassignedOpc 0xFF) := by decide
theorem test_decode_unknown_frame : decode (.frame [0x44, 0x44]) = .error (.unknownFrame [0x44, 0x44]) := by decide

theorem test_table_word_operation : decodeTableWord 32 0xFFFF000A = some (.put16be 0xFFFF) := by decide
theorem test_table_word_short_operation : decodeTableWord 8 0x22 = some .handshake := by decide
theorem test_table_word_command : decodeTableWord 16 0x44BB = some .cmdEraseExtended := by decide
theorem test_table_word_control : decodeTableWord 8 0x7F = some .init := by decide
theorem test_table_word_sentinel : decodeTableWord 24 0xFFFE01 = some .sentinelBank1 := by decide
theorem test_table_word_unassigned : decodeTableWord 32 0x00000003 = none := by decide

/-- The very next step runs the instruction placed. -/
theorem test_placed_instruction_runs :
    after (step (State.reset.withFetchWord 32 0x00007F11)) (fun t => t.txlog == [0x7F] && t.phase == .idle) = true := by
  decide

/-! ### One step of each operation -/

/-- V-NOP-1: after V-SC-2 left NACK and 0x1F. -/
theorem test_nop : after (exec .nop { State.reset with res := .nack, raw := 0x1F })
    (fun t => t.res == .ok && t.raw == 0x00 && t.txlog == []) = true := by decide

/-- V-CK-3. -/
theorem test_ckxor : after (exec .ckxor (holding [0x00, 0x02, 0x00, 0x00, 0x00, 0x01, 0x00, 0x02]))
    (fun t => t.cksum == 0x01 && t.res == .ok) = true := by decide

/-- V-CK-7: the run is marked. -/
theorem test_ckxor_unwritten : ∃ t, exec .ckxor { holding [0x01, 0x02] with plen := 3 } = .next t ∧ t.faultMark = true :=
  ⟨_, rfl, rfl⟩

/-- V-CK-6. -/
theorem test_ckxor_elen : after (exec .ckxor (ofLength 131071)) (fun t => t.res == .elen && t.cksum == 0x00) = true := by
  decide

/-- V-CP-3. -/
theorem test_compl : after (exec (.compl 0x7F) State.reset) (fun t => t.cmpl == 0x80 && t.txlog == []) = true := by decide

/-- V-PU-8. -/
theorem test_clrbuf : after (exec .clrbuf (holding [1, 2, 3, 4, 5]))
    (fun t => t.plen == 0 && cells t.mem 0x20000 2 == [some 1, some 2]) = true := by decide

/-- V-PU-1. -/
theorem test_put8 : after (exec (.put8 0x03) State.reset)
    (fun t => t.plen == 1 && cells t.mem 0x20000 2 == [some 0x03, none]) = true := by decide

/-- V-PU-4 and V-PU-5: the last cell can be written, and then no more. -/
theorem test_put8_bound :
    after (exec (.put8 0xAA) (ofLength 131069)) (fun t => t.plen == 131070 && t.mem == [(0x3FFFD, 0xAA)]) = true ∧
    after (exec (.put8 0xAA) (ofLength 131070)) (fun t => t.res == .elen && t.mem == []) = true := by decide

/-- V-PU-2. -/
theorem test_put16be : after (exec (.put16be 0x0002) State.reset)
    (fun t => t.plen == 2 && cells t.mem 0x20000 2 == [some 0x00, some 0x02]) = true := by decide

/-- V-PU-3. -/
theorem test_put16be_elen : after (exec (.put16be 0x1234) (ofLength 131069))
    (fun t => t.res == .elen && t.plen == 131069 && t.mem == []) = true := by decide

/-- V-PU-6. -/
theorem test_put32be : after (exec .put32be { State.reset with addr := 0x12345678 })
    (fun t => t.plen == 4 && cells t.mem 0x20000 4 == [some 0x12, some 0x34, some 0x56, some 0x78] &&
      t.addr == 0x12345678) = true := by decide

/-- V-PU-7. -/
theorem test_put32be_elen : after (exec .put32be (ofLength 131067)) (fun t => t.res == .elen && t.mem == []) = true := by
  decide

/-- V-SC-2. -/
theorem test_sendcmd_nack : after (exec (.sendcmd 0x44) (answering [[0x1F]]))
    (fun t => t.txlog == [0x44, 0xBB] && t.res == .nack && t.raw == 0x1F && t.cmpl == 0xBB) = true := by decide

/-- V-SC-7: a byte 0x00 that is no acknowledgment. -/
theorem test_sendcmd_unexpected : after (exec (.sendcmd 0x31) (answering [[0x00]]))
    (fun t => t.txlog == [0x31, 0xCE] && t.res == .unexpected && t.raw == 0x00) = true := by decide

/-- V-SB-1. -/
theorem test_sendbyte : after (exec (.sendbyte 0x7F) (answering [[0x79]]))
    (fun t => t.txlog == [0x7F] && t.res == .ok && t.raw == 0x00 && t.rxlog == []) = true := by decide

/-- V-BK-1. -/
theorem test_sendblk : after (exec .sendblk { holding [0x03, 0xDE, 0xAD, 0xBE, 0xEF] with rxnext := [[0x79]] })
    (fun t => t.txlog == [0x03, 0xDE, 0xAD, 0xBE, 0xEF, 0x21] && t.cksum == 0x21 && t.res == .ok) = true := by decide

/-- V-BK-2. -/
theorem test_sendblk_elen : after (exec .sendblk (answering [[0x79]]))
    (fun t => t.res == .elen && t.txlog == [] && t.rxlog == []) = true := by decide

/-- V-BK-6. -/
theorem test_sendframe : after (exec .sendframe (holding [0xFF, 0xFE]))
    (fun t => t.txlog == [0xFF, 0xFE, 0x01] && t.cksum == 0x01 && t.raw == 0x00 && t.rxlog == []) = true := by decide

/-- V-CK-7's setup under R129, R202: the run goes on with the fault mark; the written bytes go out first. -/
theorem test_sendframe_unwritten :
    (∃ t, exec .sendframe { holding [1, 2] with plen := 3 } = .next t ∧ t.faultMark = true ∧ t.txlog.length = 4 ∧
      t.txlog.take 2 = [1, 2] ∧ t.res = .ok) ∧
    ∃ t, exec .sendframe (holding [1, 2]) = .next t ∧ t.faultMark = false :=
  ⟨⟨_, rfl, rfl, rfl, rfl, rfl⟩, _, rfl, rfl⟩

/-- V-AD-5. -/
theorem test_sendaddr : after (exec .sendaddr { answering [[0x79]] with addr := 0x08000100, plen := 5 })
    (fun t => t.txlog == [0x08, 0x00, 0x01, 0x00, 0x09] && t.res == .ok && t.plen == 5) = true := by decide

/-- V-AD-3. -/
theorem test_sendaddr_unexpected : after (exec .sendaddr { answering [[0x7A]] with addr := 0xFFFFFFFF })
    (fun t => t.txlog == [0xFF, 0xFF, 0xFF, 0xFF, 0x00] && t.res == .unexpected && t.raw == 0x7A) = true := by decide

/-- V-WA-1. -/
theorem test_waitack : after (exec .waitack (answering [[0x79]])) (fun t => t.res == .ok && t.raw == 0x79) = true := by
  decide

/-- V-WA-3. -/
theorem test_waitack_timeout : after (exec .waitack (answering [[]]))
    (fun t => t.res == .timeout && t.raw == 0x00 && t.txlog == []) = true := by decide

/-- V-WT-1. -/
theorem test_waitacktol : after (exec .waitacktol (answering [[], [], [0x79], [0x1F]]))
    (fun t => t.res == .ok && t.raw == 0x79 && t.ato == 2 && t.rxnext == [[0x1F]]) = true := by decide

/-- V-WT-2. -/
theorem test_waitacktol_silent : after (exec .waitacktol (answering [[], [], [], [], [], [], [], [], [0x1F]]))
    (fun t => t.res == .ok && t.raw == 0x00 && t.ato == 8 && t.rxnext == [[0x1F]]) = true := by decide

/-- V-HS-2: only the tail counts. -/
theorem test_handshake : after (exec .handshake (answering [[0x79, 0x00], [0x00, 0x1F, 0x79]]))
    (fun t => t.txlog == [0x7F, 0x7F] && t.res == .ok && t.raw == 0x79 && t.att == 2) = true := by decide

/-- V-HS-3, with the timeout left alone (V-HS-4). -/
theorem test_handshake_fails : after (exec .handshake (answering [[0x1F], [0x1F], [0x1F], [0x1F], [0x1F]]))
    (fun t => t.txlog == [0x7F, 0x7F, 0x7F, 0x7F, 0x7F] && t.res == .hsfail && t.raw == 0x1F && t.att == 5 &&
      t.tmo == 2000) = true := by decide

/-- V-RR-3: no acknowledgment is read after a short payload. -/
theorem test_readresp_short : after (exec .readresp (answering [[0x03], [0x01, 0x02], [0x79]]))
    (fun t => t.res == .timeout && t.rl == 0x03 && t.rcount == 2 && t.mem == [(0x100, 0x01), (0x101, 0x02)] &&
      t.rxnext == [[0x79]]) = true := by decide

/-- V-RR-6: payload bytes are data. -/
theorem test_readresp : after (exec .readresp (answering [[0x01], [0x79, 0x1F], [0x79]]))
    (fun t => t.res == .ok && t.raw == 0x79 && rinfoBits t.rcount t.rl == 0x00000201 &&
      t.mem == [(0x100, 0x79), (0x101, 0x1F)]) = true := by decide

/-- V-RW-2. -/
theorem test_readraw_short : after (exec (.readraw 4) { answering [[0xAA, 0xBB]] with rl := 0x07 })
    (fun t => t.res == .short && t.rcount == 2 && t.rl == 0x00 && t.mem == [(0x100, 0xAA), (0x101, 0xBB)]) = true := by
  decide

/-- V-RW-4: RINFO is unchanged and RX is not read. -/
theorem test_readraw_elen : after (exec (.readraw 257) { answering [[0xAA]] with rl := 0x07 })
    (fun t => t.res == .elen && t.rl == 0x07 && t.rxlog == []) = true := by decide

/-! The wire patterns (the frames of R75, R80, R84; the classification of R78). -/

theorem test_cmd_get : after (exec .cmdGet (answering [[0x79]])) (fun t => t.txlog == [0x00, 0xFF]) = true := by decide
theorem test_cmd_get_id : after (exec .cmdGetId (answering [[0x79]])) (fun t => t.txlog == [0x02, 0xFD]) = true := by decide
theorem test_cmd_read : after (exec .cmdRead (answering [[0x7A]]))
    (fun t => t.txlog == [0x11, 0xEE] && t.res == .unexpected) = true := by decide
theorem test_cmd_go : after (exec .cmdGo (answering [[]]))
    (fun t => t.txlog == [0x21, 0xDE] && t.res == .timeout) = true := by decide
theorem test_cmd_write : after (exec .cmdWrite (answering [[0x00]])) (fun t => t.txlog == [0x31, 0xCE]) = true := by decide
theorem test_cmd_erase : after (exec .cmdErase (answering [[0x1F]])) (fun t => t.txlog == [0x43, 0xBC]) = true := by decide
theorem test_cmd_erase_extended : after (exec .cmdEraseExtended (answering [[0x1F]]))
    (fun t => t.txlog == [0x44, 0xBB] && t.res == .nack) = true := by decide
theorem test_init : after (exec .init (answering [[], [0x00, 0x79]]))
    (fun t => t.txlog == [0x7F, 0x7F] && t.att == 2 && t.res == .ok) = true := by decide
theorem test_ack : after (exec .ack State.reset) (fun t => t.res == .ok && t.raw == 0x79 && t.txlog == []) = true := by decide
theorem test_nack : after (exec .nack State.reset) (fun t => t.res == .nack && t.raw == 0x1F) = true := by decide
theorem test_sentinel_mass : after (exec .sentinelMass State.reset)
    (fun t => t.txlog == [0xFF, 0xFF, 0x00] && t.plen == 2) = true := by decide
theorem test_sentinel_bank1 : after (exec .sentinelBank1 State.reset) (fun t => t.txlog == [0xFF, 0xFE, 0x01]) = true := by
  decide
theorem test_sentinel_bank2 : after (exec .sentinelBank2 State.reset) (fun t => t.txlog == [0xFF, 0xFD, 0x02]) = true := by
  decide

/-! ### The HOST's side -/

/-- The end state of P4: STATUS = 0x00027900. -/
theorem test_status_word : statusBits 0 2 0x79 .ok false false = 0x00027900 := by decide

/-- The table of R25. -/
theorem test_result_codes :
    [Res.ok, .nack, .unexpected, .timeout, .hsfail, .short, .elen, .illegal].map Res.code = [0, 1, 2, 3, 4, 5, 6, 7] := by
  decide

/-- V-BSY-1: a write while BUSY is dropped and marked. -/
theorem test_write_while_busy :
    after (step { doing [.write 0x08 32 1] with phase := .busy (.opreq 0x00000020) })
      (fun t => t.addr == 0 && t.werr) = true := by decide

/-- R24, D33: from the issue of SENDBLK on, STATUS shows BUSY, the last result and ATO and ATT cleared. -/
theorem test_status_while_busy :
    after (step { doing [.read 0x04 32] with phase := .busy (.opreq 0x18), res := .nack, raw := 0x1F })
      (fun t => t.readlog == [(0x04, 0x00001F11)]) = true := by decide

/-- V-DEC-3: an unassigned code finishes with ILLEGAL. -/
theorem test_illegal : after (step { doing [.wait] with phase := .busy (.opreq 0x000000FF) })
    (fun t => t.res == .illegal && t.raw == 0x00 && t.phase == .idle) = true := by decide

/-- R36: the HOST's write to RBUF stores nothing, and a read of an unwritten cell is a model fault, which marks the run. -/
theorem test_rbuf_access : after (step (doing [.write 0x100 8 0xAA])) (fun t => t.mem == []) = true ∧
    (∃ t, step (doing [.read 0x1FF 8]) = .next t ∧ t.faultMark = true) ∧
    ∃ t, step { doing [.read 0x1FF 8] with mem := [(0x1FF, 0)] } = .next t ∧ t.faultMark = false :=
  ⟨by decide, ⟨_, rfl, rfl⟩, _, rfl, rfl⟩

/-- P1-N: the program stops at its first `expect`; ADDR stays 0. -/
theorem test_expect_stops :
    after (step { doing [.expect .ok, .write 0x08 32 0x08000000] with res := .nack }) (fun t => t.inputs == []) = true := by
  decide

/-! ### Witnesses: a case that meets every hypothesis of each statement that has some -/

theorem witness_DecodedWordKeepsItsOperands : decode (.opreq 0xFFFF4410) = .ok (.sendcmd 0x44) := by decide

/-- The ends of every range of unassigned codes. -/
theorem witness_UnassignedOpcodeFinishesIllegal :
    (∀ w ∈ [(0x00000003 : Word), 0x07, 0x0C, 0x0F, 0x12, 0x17, 0x1B, 0x1F, 0x23, 0x2F, 0x32, 0xFFFFFFFF],
      ((0x03 ≤ (w.extractLsb' 0 8).toNat ∧ (w.extractLsb' 0 8).toNat ≤ 0x07) ∨
        (0x0C ≤ (w.extractLsb' 0 8).toNat ∧ (w.extractLsb' 0 8).toNat ≤ 0x0F) ∨
        (0x12 ≤ (w.extractLsb' 0 8).toNat ∧ (w.extractLsb' 0 8).toNat ≤ 0x17) ∨
        (0x1B ≤ (w.extractLsb' 0 8).toNat ∧ (w.extractLsb' 0 8).toNat ≤ 0x1F) ∨
        (0x23 ≤ (w.extractLsb' 0 8).toNat ∧ (w.extractLsb' 0 8).toNat ≤ 0x2F) ∨
        0x32 ≤ (w.extractLsb' 0 8).toNat)) ∧
    ∀ w : Word, (doing [.write 0x00 32 w, .wait]).phase = .idle ∧
      (doing [.write 0x00 32 w, .wait]).inputs = .write 0x00 32 w :: .wait :: [] := by
  refine ⟨fun w h => ?_, fun w => ⟨rfl, rfl⟩⟩
  simp only [List.mem_cons, List.not_mem_nil, or_false] at h
  rcases h with rfl | rfl | rfl | rfl | rfl | rfl | rfl | rfl | rfl | rfl | rfl | rfl <;> decide

/-- One case for each form of what is to come. -/
theorem witness_StepRunsLatchedOperation :
    ∀ xs ∈ [[], [Input.wait], [Input.expect .ok, .reset]],
      ({ doing xs with phase := .busy (.opreq 0x08) } : State).phase = .busy (.opreq 0x08) ∧
      decode (.opreq 0x08) = .ok .clrbuf ∧
      (({ doing xs with phase := .busy (.opreq 0x08) } : State).inputs = [] ∨
        (∃ rest, ({ doing xs with phase := .busy (.opreq 0x08) } : State).inputs = .wait :: rest) ∨
        ∃ q rest, ({ doing xs with phase := .busy (.opreq 0x08) } : State).inputs = .expect q :: rest) := by
  intro xs h
  simp only [List.mem_cons, List.not_mem_nil, or_false] at h
  rcases h with rfl | rfl | rfl
  · exact ⟨rfl, by decide, .inl rfl⟩
  · exact ⟨rfl, by decide, .inr (.inl ⟨_, rfl⟩)⟩
  · exact ⟨rfl, by decide, .inr (.inr ⟨_, _, rfl⟩)⟩

/-- The ends of every range of unassigned codes, under each form of what is to come. -/
theorem witness_StepRunsUnassignedWord :
    (∀ w ∈ [(0x00000003 : Word), 0x07, 0x0C, 0x0F, 0x12, 0x17, 0x1B, 0x1F, 0x23, 0x2F, 0x32, 0xFFFFFFFF],
      w.extractLsb' 0 8 ∉ [(0x00 : Byte), 0x01, 0x02, 0x08, 0x09, 0x0A, 0x0B, 0x10, 0x11, 0x18, 0x19, 0x1A, 0x20, 0x21, 0x22,
        0x30, 0x31]) ∧
    ∀ w, ∀ xs ∈ [[], [Input.wait], [Input.expect .ok, .reset]],
      ({ doing xs with phase := .busy (.opreq w) } : State).phase = .busy (.opreq w) ∧
      (({ doing xs with phase := .busy (.opreq w) } : State).inputs = [] ∨
        (∃ rest, ({ doing xs with phase := .busy (.opreq w) } : State).inputs = .wait :: rest) ∨
        ∃ q rest, ({ doing xs with phase := .busy (.opreq w) } : State).inputs = .expect q :: rest) := by
  refine ⟨fun w h => ?_, fun w xs h => ⟨rfl, ?_⟩⟩
  · simp only [List.mem_cons, List.not_mem_nil, or_false] at h
    rcases h with rfl | rfl | rfl | rfl | rfl | rfl | rfl | rfl | rfl | rfl | rfl | rfl <;> decide
  simp only [List.mem_cons, List.not_mem_nil, or_false] at h
  rcases h with rfl | rfl | rfl
  · exact .inl rfl
  · exact .inr (.inl ⟨_, rfl⟩)
  · exact .inr (.inr ⟨_, _, rfl⟩)

theorem witness_IdleMachineWaits :
    State.reset.phase = .idle ∧ State.reset.inputs = [] ∧ (doing [.wait]).phase = .idle ∧
      (doing [.wait]).inputs = .wait :: [] := by decide

theorem witness_ResetInputRestoresResetValues :
    ({ doing [.reset, .wait] with phase := .busy (.opreq 0x22) } : State).inputs = .reset :: [.wait] := by decide

theorem witness_ExpectAbortsOnOtherResult :
    (doing [.expect .ok]).phase = .idle ∧ (doing [.expect .ok]).inputs = .expect .ok :: [] ∧
      (doing [.expect .ok]).res = .ok ∧
      (doing [.expect .nack, .wait]).inputs = .expect .nack :: [.wait] ∧ (doing [.expect .nack, .wait]).res ≠ .nack ∧
      Input.reset ∉ [Input.wait] := by decide

/-- For the first clause of every statement about an operation: a word of its code, with ones in the other fields, written
to OPREQ while IDLE. -/
theorem witness_IssuedBy :
    ∀ opc ∈ [(0x00 : Byte), 0x01, 0x02, 0x08, 0x09, 0x0A, 0x0B, 0x10, 0x11, 0x18, 0x19, 0x1A, 0x20, 0x21, 0x22, 0x30, 0x31],
      (requestWord 0xFFFF 0xFF opc).extractLsb' 0 8 = opc ∧
      (doing [.write 0x00 32 (requestWord 0xFFFF 0xFF opc)]).phase = .idle ∧
      (doing [.write 0x00 32 (requestWord 0xFFFF 0xFF opc)]).inputs =
        .write 0x00 32 (requestWord 0xFFFF 0xFF opc) :: [] := by decide

/-- A length that PLEN can say is what it says. -/
theorem plen_toNat (n : Nat) (h : n < 131072) : (BitVec.ofNat 17 n).toNat = n := by
  simp only [BitVec.toNat_ofNat]
  omega

/-- A payload put into PBUF is held, whatever its length up to what PLEN can say. -/
theorem holding_holds (p : List Byte) (h : p.length < 131072) : (holding p).HoldsPayload p := by
  refine ⟨(plen_toNat _ h).symm, fun i hi => ?_⟩
  simp only [holding]
  rw [Memory.read_writeList, if_pos (by omega), Nat.add_sub_cancel_left]

/-- A payload of any length is held by some state. -/
theorem some_holding (n : Nat) (h : n < 131072) : ∃ p, (holding p).plen.toNat = n ∧ (holding p).HoldsPayload p := by
  refine ⟨List.replicate n 0, ?_, holding_holds _ (by rw [List.length_replicate]; exact h)⟩
  simp only [holding, List.length_replicate]
  exact plen_toNat n h

/-- With PLEN past the cells written, the payload has an unwritten cell. -/
theorem holding_unwritten (p : List Byte) (n : Nat) (h : p.length < n) (hn : n < 131072) :
    ({ holding p with plen := BitVec.ofNat 17 n } : State).HasUnwritten := by
  refine ⟨p.length, by simpa only [plen_toNat n hn] using h, ?_⟩
  simp only [holding]
  rw [Memory.read_writeList, if_neg (by omega)]
  rfl

/-- The longest payload with all its cells written but the last. -/
theorem last_unwritten : ∃ s : State, s.plen.toNat = 131070 ∧ s.HasUnwritten :=
  ⟨_, plen_toNat 131070 (by decide),
    holding_unwritten (List.replicate 131069 0) 131070 (by rw [List.length_replicate]; decide) (by decide)⟩

/-- The empty payload, the longest one, the length past it, and unwritten cells at both ends. -/
theorem witness_CkxorFoldsPayload :
    ((holding []).plen.toNat ≤ 131070 ∧ (holding []).HoldsPayload []) ∧
    (∃ p, (holding p).plen.toNat = 131070 ∧ (holding p).HoldsPayload p) ∧
    131070 < (ofLength 131071).plen.toNat ∧
    ((ofLength 1).plen.toNat ≤ 131070 ∧ (ofLength 1).HasUnwritten) ∧
    (∃ s : State, s.plen.toNat = 131070 ∧ s.HasUnwritten) :=
  ⟨⟨by decide, holding_holds [] (by decide)⟩, some_holding 131070 (by decide), by decide,
    ⟨by decide, holding_unwritten [] 1 (by decide) (by decide)⟩, last_unwritten⟩

theorem witness_Put8AppendsByte :
    (ofLength 131069).plen.toNat + 1 = 131070 ∧ 131070 < (ofLength 131070).plen.toNat + 1 := by decide

theorem witness_Put16beAppendsBigEndian :
    (ofLength 131068).plen.toNat + 2 = 131070 ∧ 131070 < (ofLength 131069).plen.toNat + 2 := by decide

theorem witness_Put32beAppendsAddress :
    (ofLength 131066).plen.toNat + 4 = 131070 ∧ 131070 < (ofLength 131067).plen.toNat + 4 := by decide

/-- One byte, the longest payload, the lengths on both sides of the range, and an unwritten cell. -/
theorem witness_SendblkSendsBlockAndAwaits :
    (1 ≤ (holding [0x5A]).plen.toNat ∧ (holding [0x5A]).plen.toNat ≤ 131070 ∧ (holding [0x5A]).HoldsPayload [0x5A]) ∧
    (∃ p, (holding p).plen.toNat = 131070 ∧ (holding p).HoldsPayload p) ∧
    (ofLength 0).plen.toNat < 1 ∧ 131070 < (ofLength 131071).plen.toNat ∧
    ((ofLength 1).plen.toNat ≤ 131070 ∧ (ofLength 1).HasUnwritten) :=
  ⟨⟨by decide, by decide, holding_holds _ (by decide)⟩, witness_CkxorFoldsPayload.2.1, by decide, by decide,
    witness_CkxorFoldsPayload.2.2.2.1⟩

/-- SENDFRAME has the hypotheses of SENDBLK. -/
theorem witness_SendframeSendsBlockOnly :
    (1 ≤ (holding [0xFF, 0xFE]).plen.toNat ∧ (holding [0xFF, 0xFE]).plen.toNat ≤ 131070 ∧
      (holding [0xFF, 0xFE]).HoldsPayload [0xFF, 0xFE]) ∧
    (∃ p, (holding p).plen.toNat = 131070 ∧ (holding p).HoldsPayload p) ∧
    (ofLength 0).plen.toNat < 1 ∧ 131070 < (ofLength 131071).plen.toNat ∧
    ((ofLength 1).plen.toNat ≤ 131070 ∧ (ofLength 1).HasUnwritten) :=
  ⟨⟨by decide, by decide, holding_holds _ (by decide)⟩, witness_CkxorFoldsPayload.2.1, by decide, by decide,
    witness_CkxorFoldsPayload.2.2.2.1⟩

theorem witness_TransmittedBlockFoldsToZero :
    (∃ t, exec .sendblk { holding [0x5A] with rxnext := [[0x1F]] } = .next t ∧ t.res ≠ .elen) ∧
    (∃ t, exec .sendframe (holding [0x5A]) = .next t ∧ t.res ≠ .elen) ∧
    ∃ t, exec .sendaddr (answering [[0x79]]) = .next t ∧ t.res ≠ .elen :=
  ⟨⟨_, rfl, by decide⟩, ⟨_, rfl, by decide⟩, _, rfl, by decide⟩

theorem witness_SendframeThenWaitackIsSendblk : ∃ u, exec .sendframe (holding [0xFF, 0xFE]) = .next u ∧ u.res = .ok :=
  ⟨_, rfl, by decide⟩

/-- A window of any length can end in ACK. -/
theorem some_window (n : Nat) : ∃ w : List Byte, w.length = n + 1 ∧ w.getLast? = some 0x79 :=
  ⟨List.replicate n 0 ++ [0x79], by simp, by simp⟩

/-- The shortest and the longest first window that synchronises, and five that do not. -/
theorem witness_HandshakeFirstWindowOrFailure :
    ((answering [[0x79]]).rxnext = [0x79] :: [] ∧ [(0x79 : Byte)].length ≤ 1024 ∧ [(0x79 : Byte)].getLast? = some 0x79) ∧
    (∃ w : List Byte, w.length = 1024 ∧ w.getLast? = some 0x79) ∧
    ((answering [[], [0x1F], [0x79, 0x00], [0x00], []]).rxnext = [[], [0x1F], [0x79, 0x00], [0x00], []] ++ [] ∧
      [[], [0x1F], [0x79, 0x00], [0x00], ([] : List Byte)].length = 5 ∧
      ∀ w ∈ [[], [0x1F], [0x79, 0x00], [0x00], ([] : List Byte)], w.length ≤ 1024 ∧ w.getLast? ≠ some 0x79) :=
  ⟨by decide, some_window 1023, by decide⟩

theorem witness_GoodResponseIsInRbuf :
    ∃ t, exec .readresp (answering [[0x01], [0x04, 0x13], [0x79]]) = .next t ∧ t.res = .ok := ⟨_, rfl, by decide⟩

/-- The ends of both ranges of counts. -/
theorem witness_ReadrawReceivesExactly :
    (1 ≤ (1 : Half).toNat ∧ (1 : Half).toNat ≤ 256) ∧ (1 ≤ (256 : Half).toNat ∧ (256 : Half).toNat ≤ 256) ∧
      (0 : Half).toNat < 1 ∧ 256 < (257 : Half).toNat ∧ 256 < (0xFFFF : Half).toNat := by decide

theorem witness_StatusReadLayout :
    (doing [.read 0x04 32]).phase = .idle ∧ (doing [.read 0x04 32]).inputs = .read 0x04 32 :: [] := by decide

/-- Every register, and the first and the last reserved word, in both phases. -/
theorem witness_RegisterReadValues :
    ∀ off ∈ [0x00, 0x08, 0x0C, 0x10, 0x14, 0x18, 0x1C, 0x20, 0xFC], ∀ ph ∈ [Phase.idle, .busy (.opreq 0x22)],
      ({ doing [.read off 32] with phase := ph } : State).inputs = .read off 32 :: [] ∧ off % 4 = 0 ∧ off ≤ 0xFC ∧
        off ≠ 0x04 ∧ (ph = .idle ∨ off ∉ [0x10, 0x14, 0x18] ∨ off = 0x10 ∨ off = 0x14 ∨ off = 0x18) := by decide

/-- The first and the last cell of RBUF and of PBUF, written and unwritten, in both phases, and the two reserved bytes. -/
theorem witness_BufferReadValues :
    (∀ off ∈ [0x100, 0x1FF, 0x20000, 0x3FFFD], ∀ ph ∈ [Phase.idle, .busy (.opreq 0x22)],
      ((0x100 ≤ off ∧ off ≤ 0x1FF) ∨ (0x20000 ≤ off ∧ off ≤ 0x3FFFD)) ∧
      ({ doing [.read off 8] with mem := [(off, 0x5A)], phase := ph } : State).inputs = .read off 8 :: [] ∧
      Memory.read ({ doing [.read off 8] with mem := [(off, 0x5A)], phase := ph } : State).mem off = some 0x5A ∧
      Memory.read ({ doing [.read off 8] with phase := ph } : State).mem off = none) ∧
    ∀ off ∈ [0x3FFFE, 0x3FFFF], (off = 0x3FFFE ∨ off = 0x3FFFF) ∧ (doing [.read off 8]).inputs = .read off 8 :: [] := by
  decide

/-- An operation that counts in neither field, WAITACKTOL, HANDSHAKE and INIT. -/
theorem witness_StatusReadWhileBusy :
    (∀ r ∈ [Request.opreq 0x18, .opreq 0x21, .opreq 0x22, .frame [0x7F]],
      ({ doing [.read 0x04 32] with phase := .busy r } : State).phase = .busy r ∧
        ({ doing [.read 0x04 32] with phase := .busy r } : State).inputs = .read 0x04 32 :: []) ∧
    (decode (.opreq 0x18) ≠ .ok .waitacktol ∧ decode (.opreq 0x18) ≠ .ok .handshake ∧ decode (.opreq 0x18) ≠ .ok .init) ∧
    decode (.opreq 0x21) = .ok .waitacktol ∧ decode (.opreq 0x22) = .ok .handshake ∧ decode (.frame [0x7F]) = .ok .init := by
  decide

/-- A register, and an unwritten cell. -/
theorem witness_ReadsHaveNoSideEffect :
    (∃ t, step (doing [.read 0x1C 32]) = .next t) ∧ ∃ t, step (doing [.read 0x100 8]) = .next t ∧ t.faultMark = true :=
  ⟨⟨_, rfl⟩, _, rfl, rfl⟩

/-- A write to each kind of target. -/
theorem witness_IdleWritesStore :
    ∀ p ∈ [(0x04, 32), (0x08, 32), (0x0C, 32), (0x10, 32), (0x14, 32), (0x18, 32), (0x1C, 32), (0x20, 32), (0xFC, 32),
        (0x100, 8), (0x1FF, 8), (0x20000, 8), (0x3FFFD, 8), (0x3FFFE, 8), (0x3FFFF, 8)],
      (doing [.write p.1 p.2 0xFFFFFFFF]).phase = .idle ∧
      (doing [.write p.1 p.2 0xFFFFFFFF]).inputs = .write p.1 p.2 0xFFFFFFFF :: [] ∧ Admitted p.1 p.2 ∧ p.1 ≠ 0x00 := by
  decide

theorem witness_BusyWritesAreDropped :
    ∀ p ∈ [(0x00, 32), (0x08, 32), (0xFC, 32), (0x100, 8), (0x3FFFD, 8), (0x3FFFF, 8)],
      ({ doing [.write p.1 p.2 1] with phase := .busy (.opreq 0x20) } : State).phase = .busy (.opreq 0x20) ∧
      ({ doing [.write p.1 p.2 1] with phase := .busy (.opreq 0x20) } : State).inputs = .write p.1 p.2 1 :: [] ∧
      Admitted p.1 p.2 := by decide

/-- Accesses on both sides of every bound of R53. -/
theorem witness_OnlyAdmittedAccessesStep :
    (∀ p ∈ [(0x00, 32), (0xFC, 32), (0x100, 8), (0x1FF, 8), (0x20000, 8), (0x3FFFF, 8)], Admitted p.1 p.2) ∧
    (∀ p ∈ [(0x02, 32), (0x100, 32), (0x00, 8), (0xFF, 8), (0x200, 8), (0x1FFFF, 8), (0x40000, 8), (0x08, 16), (0x20000, 32)],
      ¬ Admitted p.1 p.2) := by decide

theorem witness_StepKeepsInvariant :
    (doing [.write 0x20000 8 0x5A]).Inv ∧ ∃ t, step (doing [.write 0x20000 8 0x5A]) = .next t := ⟨by decide, _, rfl⟩

theorem witness_PollingHostDropsNoWrite :
    (doing [.write 0x08 32 7, .write 0x00 32 0x1A, .read 0x04 32, .wait, .write 0x1C 32 9]).Disciplined ∧
      ∃ t, step (doing [.write 0x08 32 7, .write 0x00 32 0x1A, .read 0x04 32, .wait, .write 0x1C 32 9]) = .next t :=
  ⟨rfl, _, rfl⟩

/-- A step that sets WERR and a step that clears it. -/
theorem witness_WerrSetOnlyByDroppedWrite :
    (∃ t, step { doing [.write 0x08 32 1] with phase := .busy (.opreq 0x20) } = .next t ∧ t.werr = true) ∧
      ∃ t, step { doing [.reset] with werr := true } = .next t ∧ t.werr = false := ⟨⟨_, rfl, rfl⟩, _, rfl, rfl⟩

/-- The HOST's read and the payload read that set the mark, and a reset that keeps it. -/
theorem witness_FaultMarkIsNeverCleared :
    (∃ t, step (doing [.read 0x20000 8]) = .next t ∧ t.faultMark = true) ∧
    (∃ t, step { ofLength 1 with phase := .busy (.opreq 0x01) } = .next t ∧ t.faultMark = true) ∧
    ∃ t, step { doing [.reset] with faultMark := true } = .next t ∧ t.faultMark = true :=
  ⟨⟨_, rfl, rfl⟩, ⟨_, rfl, rfl⟩, _, rfl, rfl⟩

/-- An OPREQ write while IDLE, and one while BUSY. -/
theorem witness_OnlyOpreqWriteStartsOperation :
    (∃ t, step (doing [.write 0x00 32 0x20]) = .next t ∧ t.phase = .busy (.opreq 0x20)) ∧
      ∃ t, step { doing [.write 0x00 32 0x20] with phase := .busy (.opreq 0x22) } = .next t ∧
        t.phase = .busy (.opreq 0x22) := ⟨⟨_, rfl, rfl⟩, _, rfl, rfl⟩

theorem witness_TxlogOnlyGrows :
    (∃ t, step { doing [.wait] with phase := .busy (.opreq 0x00007F11) } = .next t) ∧
      ∀ rest, ({ doing [.wait] with phase := .busy (.opreq 0x00007F11) } : State).inputs ≠ .reset :: rest :=
  ⟨⟨_, rfl⟩, fun _ h => by simp [doing] at h⟩

theorem witness_OperationsKeepHostRegisters : ∃ t, exec .handshake (answering [[0x79]]) = .next t := ⟨_, rfl⟩

theorem witness_FailingOperationKeepsOperands :
    ∃ t, exec .readresp (answering [[0x03], [0x01]]) = .next t ∧ t.res ≠ .ok := ⟨_, rfl, by decide⟩

theorem witness_ElenHasNoOtherEffect :
    (∃ t, exec .ckxor (ofLength 131071) = .next t ∧ t.res = .elen) ∧
      ∃ t, exec (.readraw 0) State.reset = .next t ∧ t.res = .elen := ⟨⟨_, rfl, by decide⟩, _, rfl, by decide⟩

theorem witness_ResultsPerOperation : ∃ t, exec (.readraw 2) (answering [[1, 2]]) = .next t := ⟨_, rfl⟩

/-- Two oracles, one of which answers and one of which does not. -/
theorem witness_NextNeverDependsOnPeer :
    Instr.sendcmd 0x44 ≠ .handshake ∧ Instr.sendcmd 0x44 ≠ .init ∧
      (∃ t, exec (.sendcmd 0x44) (answering [[0x79]]) = .next t) ∧
      ∃ u, exec (.sendcmd 0x44) { answering [[0x79]] with rxnext := [[]], peer := 7, rxlog := [] } = .next u :=
  ⟨by decide, by decide, ⟨_, rfl⟩, _, rfl⟩

theorem witness_OtherTimeoutsAreFatal :
    absorbsTimeouts .readresp = false ∧
      ∃ t, exec .readresp (answering [[0x00], [0x55], [0x79]]) = .next t ∧ t.res = .ok := ⟨rfl, _, rfl, by decide⟩

theorem witness_TransmissionPrecedesReception :
    Instr.sendcmd 0x44 ≠ .handshake ∧ Instr.sendcmd 0x44 ≠ .init ∧
      ∃ t, exec (.sendcmd 0x44) (answering [[0x79]]) = .next t := ⟨by decide, by decide, _, rfl⟩

theorem witness_ReadTimeouts : ∃ t, exec .handshake (answering [[], [0x79]]) = .next t := ⟨_, rfl⟩

theorem witness_DataRegisterWriters : ∃ t, exec .waitack (answering [[0x79]]) = .next t := ⟨_, rfl⟩

/-- The rows of the three statements about wire patterns. -/
theorem witness_wire_patterns :
    (Instr.cmdGo, (0x21 : Byte), (0xDE : Byte)) ∈ [(Instr.cmdGet, (0x00 : Byte), (0xFF : Byte)), (.cmdGetId, 0x02, 0xFD),
      (.cmdRead, 0x11, 0xEE), (.cmdGo, 0x21, 0xDE), (.cmdWrite, 0x31, 0xCE), (.cmdErase, 0x43, 0xBC),
      (.cmdEraseExtended, 0x44, 0xBB)] ∧
    (Instr.sentinelBank2, (0xFF : Byte), (0xFD : Byte), (0x02 : Byte)) ∈
      [(Instr.sentinelMass, (0xFF : Byte), (0xFF : Byte), (0x00 : Byte)), (.sentinelBank1, 0xFF, 0xFE, 0x01),
        (.sentinelBank2, 0xFF, 0xFD, 0x02)] := by decide

end Sys2Proof.Tests
end

section
/-! The invariant of the machine (R24, R25, R33, R35, R36, R38, R201, R202): what every operation does to the part each
clause speaks of, read off the cases of `Effect`; then the clauses along the cases of `Turn`. -/

namespace Sys2Proof.Machine

/-! ### BUSY -/

/-- R24: BUSY is 0 in IDLE. -/
theorem State.isBusy_of_idle {s : State} (h : s.phase = .idle) : s.isBusy = false := by simp [State.isBusy, h]

/-- R24: BUSY is 1 while an operation is latched. -/
theorem State.isBusy_of_busy {s : State} {r : Request} (h : s.phase = .busy r) : s.isBusy = true := by
  simp [State.isBusy, h]

/-- R200: BUSY is 0 after a completed operation. -/
theorem effect_notBusy {s t : State} {i : Instr} (h : Effect s i t) : t.isBusy = false :=
  State.isBusy_of_idle (effect_idle h)

/-! ### The buffers -/

/-- R35, R36: a run of writes over buffer cells keeps the memory canonical and within the buffers. -/
theorem State.cellsOk_writeList {s t : State} {a : Nat} {bs : List Byte} (h : s.CellsOk)
    (ht : t.mem = Memory.writeList s.mem a bs) (hr : ∀ x, a ≤ x → x < a + bs.length → isCell x = true) : t.CellsOk := by
  obtain ⟨hwf, hcell⟩ := h
  refine ⟨by rw [ht]; exact Memory.wf_writeList a bs hwf, fun c hc => ?_⟩
  rw [ht] at hc
  rcases Memory.mem_writeList hc with ⟨hlo, hhi⟩ | hold
  · exact hr c.1 hlo hhi
  · exact hcell c hold

/-- A written cell stays written when a run of cells is written. -/
theorem Memory.isSome_read_writeList {m : Memory} {x : Nat} (a : Nat) (bs : List Byte)
    (h : (Memory.read m x).isSome = true) : (Memory.read (Memory.writeList m a bs) x).isSome = true := by
  rw [Memory.read_writeList]
  split
  · next hx => simp; omega
  · exact h

/-- The cells of a run are written once the run is. -/
theorem Memory.isSome_read_of_run {m : Memory} {a i : Nat} {bs : List Byte} (h : i < bs.length) :
    (Memory.read (Memory.writeList m a bs) (a + i)).isSome = true := by
  rw [Memory.read_writeList, if_pos (by omega)]
  simp [h]

/-- R36, R122 to R125, R170, R172: an operation leaves the cells as they are or writes one run of bytes, in PBUF or at the
start of RBUF. -/
theorem effect_mem {s t : State} {i : Instr} (h : Effect s i t) :
    ∃ a bs, t.mem = Memory.writeList s.mem a bs ∧
      (0x20000 ≤ a ∧ a + bs.length ≤ 0x3FFFE ∨ a = 0x100 ∧ bs.length ≤ 256) := by
  cases h
  case append bs _ hb => exact ⟨_, bs, rfl, by omega⟩
  case sentinel v _ => exact ⟨_, be16 v, rfl, by simp [be16]⟩
  case shortResponse len p hp => exact ⟨_, p, rfl, by have := byte_toNat_lt len; omega⟩
  case response len p a hp _ => exact ⟨_, p, rfl, by have := byte_toNat_lt len; omega⟩
  case readraw n p h2 hp => exact ⟨_, p, rfl, by omega⟩
  all_goals exact ⟨0x100, [], rfl, .inr ⟨rfl, Nat.zero_le _⟩⟩

/-- R33: an operation leaves RCOUNT as it is, or sets it to the number of bytes it puts at the start of RBUF. -/
theorem effect_rcount {s t : State} {i : Instr} (h : Effect s i t) :
    t.rcount = s.rcount ∨
      ∃ p : List Byte, p.length ≤ 256 ∧ t.rcount = BitVec.ofNat 9 p.length ∧ t.mem = Memory.writeList s.mem 0x100 p := by
  cases h
  case noResponse => exact .inr ⟨[], by simp, rfl, rfl⟩
  case shortResponse len p hp => exact .inr ⟨p, by have := byte_toNat_lt len; omega, rfl, rfl⟩
  case response len p a hp _ => exact .inr ⟨p, by have := byte_toNat_lt len; omega, rfl, rfl⟩
  case readraw n p h2 hp => exact .inr ⟨p, by omega, rfl, rfl⟩
  all_goals exact .inl rfl

/-- R35, R36: every operation keeps the memory canonical and within the buffers. -/
theorem effect_cellsOk {s t : State} {i : Instr} (h : Effect s i t) (hs : s.CellsOk) : t.CellsOk := by
  obtain ⟨a, bs, hm, hr⟩ := effect_mem h
  exact State.cellsOk_writeList hs hm fun x hlo hhi => (isCell_iff x).2 (by omega)

/-- R33, R36: after every operation RBUF[0..RCOUNT-1] are written. -/
theorem effect_responseHeld {s t : State} {i : Instr} (h : Effect s i t) (hs : s.ResponseHeld) : t.ResponseHeld := by
  obtain ⟨hle, hcell⟩ := hs
  obtain ⟨a, bs, hm, _⟩ := effect_mem h
  rcases effect_rcount h with hc | ⟨p, hp, hc, hm'⟩
  · rw [State.ResponseHeld, hc, hm]
    exact ⟨hle, fun i hi => Memory.isSome_read_writeList a bs (hcell i hi)⟩
  · have hn : t.rcount.toNat = p.length := by rw [hc, BitVec.toNat_ofNat]; omega
    rw [State.ResponseHeld, hn, hm']
    exact ⟨hp, fun i hi => Memory.isSome_read_of_run hi⟩

/-! ### The counters, the recorded result and the fault mark -/

/-- R152: ATO after an operation is as before, or counts up to 8. -/
theorem effect_ato {s t : State} {i : Instr} (h : Effect s i t) : t.ato = s.ato ∨ t.ato.toNat ≤ 8 := by
  cases h
  case tolerated n b hn =>
    by_cases h0 : n = 0
    · exact .inl (if_pos h0)
    · refine .inr ?_
      simp only [if_neg h0, BitVec.toNat_ofNat]
      omega
  case toleratedAll => exact .inr (le_refl 8)
  all_goals exact .inl rfl

/-- R153: ATT after an operation is as before, or counts up to 5. -/
theorem effect_att {s t : State} {i : Instr} (h : Effect s i t) : t.att = s.att ∨ t.att.toNat ≤ 5 := by
  cases h
  case synchronised ws _ h5 _ =>
    refine .inr ?_
    simp only [BitVec.toNat_ofNat]
    omega
  case unsynchronised => exact .inr (le_refl 5)
  all_goals exact .inl rfl

/-- R24, R38: every operation keeps the counters in range. -/
theorem effect_countersOk {s t : State} {i : Instr} (h : Effect s i t) (hs : s.CountersOk) : t.CountersOk := by
  obtain ⟨hato, hatt, _⟩ := hs
  refine ⟨?_, ?_, fun hb => by simp [effect_notBusy h] at hb⟩
  · exact (effect_ato h).elim (fun e => by rwa [e]) id
  · exact (effect_att h).elim (fun e => by rwa [e]) id

/-- R150, R201: the result of an acknowledgment read is recorded with the byte, or with 0x00 when none came. -/
theorem State.resultRecorded_ack {t : State} (a : List Byte) (hres : t.res = ackRes a) (hraw : t.raw = a.headD 0x00) :
    t.ResultRecorded := by
  rw [State.ResultRecorded, hres, hraw]
  cases a with
  | nil => simp [ackRes]
  | cons b rest =>
    by_cases h1 : b = 0x79
    · simp [ackRes, h1]
    by_cases h2 : b = 0x1F
    · simp [ackRes, h2]
    have e : ackRes (b :: rest) = .unexpected := by rw [ackRes, if_neg h1, if_neg h2]
    rw [e]
    exact ⟨nofun, nofun, fun _ => ⟨h1, h2⟩, nofun, by simp⟩

/-- R201: the results that are recorded with 0x00. -/
theorem State.resultRecorded_zero {t : State} (hres : t.res ∉ [.nack, .unexpected, .hsfail]) (hraw : t.raw = 0x00) :
    t.ResultRecorded := by
  simp only [List.mem_cons, List.not_mem_nil, or_false, not_or] at hres
  obtain ⟨h1, h2, h3⟩ := hres
  exact ⟨fun _ => .inr hraw, fun h => absurd h h1, fun h => absurd h h2, fun h => absurd h h3, fun _ => hraw⟩

/-- R201: every operation records its result as the table says. -/
theorem effect_resultRecorded {s t : State} {i : Instr} (h : Effect s i t) : t.ResultRecorded := by
  cases h
  case command a _ _ => exact State.resultRecorded_ack a rfl rfl
  case sendblk a _ => exact State.resultRecorded_ack a rfl rfl
  case sendaddr a _ => exact State.resultRecorded_ack a rfl rfl
  case waitack a _ => exact State.resultRecorded_ack a rfl rfl
  case response a _ _ => exact State.resultRecorded_ack a rfl rfl
  case tolerated b _ => exact State.resultRecorded_ack [b] rfl rfl
  case control b _ => exact State.resultRecorded_ack [b] rfl rfl
  case synchronised => simp [State.ResultRecorded]
  case unsynchronised ws w hw _ =>
    have hraw : w.getLast?.getD 0x00 ≠ 0x79 := by
      cases hl : w.getLast? with
      | none => decide
      | some b => simpa [hl] using hw
    exact ⟨nofun, nofun, nofun, fun _ => ⟨hraw, fun _ => rfl⟩, by simp⟩
  case readraw n p _ _ =>
    refine State.resultRecorded_zero ?_ rfl
    by_cases hp : p.length < n.toNat <;> simp [hp]
  all_goals exact State.resultRecorded_zero (by simp) rfl

/-- R202: an access keeps the fault mark up exactly when an unwritten cell has been met. -/
theorem State.markOk_mark {s : State} (u : Bool) (h : s.MarkOk) : (s.mark u).MarkOk := by
  rw [State.MarkOk, State.mark_faultMark, State.mark_unwrittenReads, h]
  cases u <;> simp

/-- R202: an operation touches the fault mark by at most one access. -/
theorem effect_mark {s t : State} {i : Instr} (h : Effect s i t) :
    ∃ u, t.faultMark = (s.mark u).faultMark ∧ t.unwrittenReads = (s.mark u).unwrittenReads := by
  cases h
  case ckxor p u _ _ => exact ⟨u, rfl, rfl⟩
  case sendblk p u _ _ _ _ _ => exact ⟨u, rfl, rfl⟩
  case sendframe p u _ _ _ => exact ⟨u, rfl, rfl⟩
  all_goals exact ⟨false, (Bool.or_false _).symm, rfl⟩

/-- R202: every operation keeps the fault mark up exactly when an unwritten cell has been met. -/
theorem effect_markOk {s t : State} {i : Instr} (h : Effect s i t) (hs : s.MarkOk) : t.MarkOk := by
  obtain ⟨u, hm, hn⟩ := effect_mark h
  rw [State.MarkOk, hm, hn]
  exact State.markOk_mark u hs

/-- Every operation keeps the invariant. -/
theorem effect_keeps_inv {s t : State} {i : Instr} (h : Effect s i t) (hs : s.Inv) : t.Inv := by
  obtain ⟨hcells, hheld, hcount, _, hmark⟩ := hs
  exact ⟨effect_cellsOk h hcells, effect_responseHeld h hheld, effect_countersOk h hcount, effect_resultRecorded h,
    effect_markOk h hmark⟩

/-! ### The other steps -/

/-- The invariant does not speak of WERR, of what is to come or of what the HOST has read. -/
theorem State.inv_bookkeeping {s : State} (werr : Bool) (inputs : List Input) (readlog : List (Nat × Word))
    (h : s.Inv) : State.Inv { s with werr := werr, inputs := inputs, readlog := readlog } := h

/-- R202: one access keeps the invariant. -/
theorem State.inv_mark {s : State} (u : Bool) (h : s.Inv) : (s.mark u).Inv := by
  obtain ⟨hcells, hheld, hcount, hrec, hmark⟩ := h
  exact ⟨hcells, hheld, hcount, hrec, State.markOk_mark u hmark⟩

/-- R73: ILLEGAL keeps the invariant. -/
theorem State.inv_raiseIllegal {s : State} (h : s.Inv) : s.raiseIllegal.Inv := by
  obtain ⟨hcells, hheld, ⟨hato, hatt, _⟩, _, hmark⟩ := h
  exact ⟨hcells, hheld, ⟨hato, hatt, nofun⟩, State.resultRecorded_zero (by simp [raiseIllegal]) rfl,
    hmark⟩

/-- R24, R70: the issue of an operation clears both counters and so keeps the invariant. -/
theorem State.inv_accept {s : State} (r : Request) (h : s.Inv) : (s.accept r).Inv := by
  obtain ⟨hcells, hheld, _, ⟨hok, hnack, hunexp, hhs, hzero⟩, hmark⟩ := h
  refine ⟨hcells, hheld, ⟨Nat.zero_le _, Nat.zero_le _, fun _ => ⟨rfl, rfl⟩⟩, ?_, hmark⟩
  exact ⟨hok, hnack, hunexp, fun e => ⟨(hhs e).1, nofun⟩, hzero⟩

/-- R41: a write that is accepted keeps the invariant; one to PBUF writes a cell of it. -/
theorem State.inv_storeTarget {s : State} {off bits : Nat} {tg : Target} (v : Word) (ht : target off bits = some tg)
    (h : s.Inv) : (s.storeTarget tg v).Inv := by
  cases tg
  case opreq => exact State.inv_accept _ h
  case pbuf a =>
    obtain ⟨_, rfl, hlo, hhi⟩ := target_pbuf ht
    obtain ⟨hcells, ⟨hle, hcell⟩, hcount, hrec, hmark⟩ := h
    have hone : (s.storeTarget (.pbuf a) v).mem = Memory.writeList s.mem a [v.setWidth 8] := rfl
    refine ⟨?_, ⟨hle, fun i hi => ?_⟩, hcount, hrec, hmark⟩
    · exact State.cellsOk_writeList hcells hone fun x h1 h2 => (isCell_iff x).2 (by simp at h2; omega)
    · rw [hone]
      exact Memory.isSome_read_writeList a _ (hcell i hi)
  all_goals exact h

/-- R85: an expect keeps the invariant. -/
theorem State.inv_expectResult {s : State} (q : Res) (h : s.Inv) : (s.expectResult q).Inv := by
  unfold State.expectResult
  split <;> exact h

/-- R40: the reset values meet the invariant, whatever the outside world holds and whether or not the run is marked. -/
theorem State.inv_reset_values {s : State} (h : s.MarkOk) (rx : List (List Byte)) (p : Nat) (xs : List Input)
    (l : List (Nat × Word)) :
    State.Inv { State.reset with
      rxnext := rx, peer := p, inputs := xs, readlog := l, faultMark := s.faultMark, unwrittenReads := s.unwrittenReads } :=
  ⟨⟨Memory.wf_reset, nofun⟩, ⟨Nat.zero_le _, nofun⟩,
    ⟨Nat.zero_le _, Nat.zero_le _, nofun⟩, State.resultRecorded_zero (by simp [State.reset]) rfl, h⟩

/-- Every step keeps the invariant. -/
theorem turn_keeps_inv {s t : State} (h : Turn s t) (hs : s.Inv) : t.Inv := by
  cases h with
  | ran r i _ _ _ he => exact effect_keeps_inv (exec_effect he) hs
  | illegal => exact State.inv_raiseIllegal hs
  | stored off bits v tg rest _ _ ht =>
    exact State.inv_storeTarget v ht (State.inv_bookkeeping s.werr rest s.readlog hs)
  | dropped off bits v rest => exact State.inv_bookkeeping true rest s.readlog hs
  | looked off bits v tg rest => exact State.inv_bookkeeping s.werr rest _ (State.inv_mark _ hs)
  | waited rest => exact State.inv_bookkeeping s.werr rest s.readlog hs
  | expected q rest => exact State.inv_expectResult q (State.inv_bookkeeping s.werr rest s.readlog hs)
  | resetInput rest =>
    obtain ⟨_, _, _, _, hmark⟩ := hs
    exact State.inv_reset_values hmark s.rxnext (s.peer + 1) rest s.readlog
  | idle => exact hs

/-- Settles O45, along the cases of a step. -/
theorem stepKeepsInvariant : Obligations.StepKeepsInvariant := fun _ _ hs h => turn_keeps_inv (step_turn h) hs

/-- Settles O46: the reset state is marked by no access. -/
theorem resetMeetsInvariant : Obligations.ResetMeetsInvariant := fun rx p xs l =>
  State.inv_reset_values (s := State.reset) rfl rx p xs l

end Sys2Proof.Machine
end

section
/-! What a step does to WERR, the latched operation, TXLOG and a polling HOST's inputs (R24, R27, R39, R41, R70, R215,
R240), along the cases of `Turn`; and the two inputs that act the same from every state they reach, a reset and a write
while BUSY. -/

namespace Sys2Proof.Machine

/-! ### What an accepted write and an expect leave unchanged -/

@[simp] theorem State.storeTarget_werr (s : State) (t : Target) (v : Word) : (s.storeTarget t v).werr = s.werr := by
  cases t <;> rfl

@[simp] theorem State.storeTarget_txlog (s : State) (t : Target) (v : Word) : (s.storeTarget t v).txlog = s.txlog := by
  cases t <;> rfl

@[simp] theorem State.storeTarget_inputs (s : State) (t : Target) (v : Word) : (s.storeTarget t v).inputs = s.inputs := by
  cases t <;> rfl

/-- R70: an accepted write latches an operation exactly when it is one to OPREQ. -/
theorem State.storeTarget_phase (s : State) (t : Target) (v : Word) :
    (s.storeTarget t v).phase = if t = .opreq then .busy (.opreq v) else s.phase := by
  cases t <;> rfl

@[simp] theorem State.expectResult_werr (s : State) (q : Res) : (s.expectResult q).werr = s.werr := by
  unfold State.expectResult; split <;> rfl

@[simp] theorem State.expectResult_txlog (s : State) (q : Res) : (s.expectResult q).txlog = s.txlog := by
  unfold State.expectResult; split <;> rfl

@[simp] theorem State.expectResult_phase (s : State) (q : Res) : (s.expectResult q).phase = s.phase := by
  unfold State.expectResult; split <;> rfl

/-- An access that reaches OPREQ is a word access at offset 0 (R22, R53). -/
theorem target_opreq {off bits : Nat} (h : target off bits = some .opreq) : off = 0x00 ∧ bits = 32 := by
  rcases target_cases off bits with ⟨hb, _, _, e⟩ | ⟨_, _, _, e⟩ | ⟨_, _, _, e⟩ | ⟨_, _, _, e⟩ | ⟨_, e⟩
  all_goals rw [e] at h
  · refine ⟨?_, hb⟩
    by_contra hne
    simp only [Option.some.injEq, wordTarget, if_neg hne] at h
    split_ifs at h
  all_goals simp at h

/-! ### What an operation leaves unchanged for the HOST -/

/-- R29, R34, R38, R200: ADDR, TMO, OPREQ, WERR and the outside world are as before. -/
theorem effect_keeps_host {s t : State} {i : Instr} (h : Effect s i t) :
    t.addr = s.addr ∧ t.tmo = s.tmo ∧ t.opreq = s.opreq ∧ t.werr = s.werr ∧ t.inputs = s.inputs ∧
      t.readlog = s.readlog ∧ t.peer = s.peer := by
  cases h <;> exact ⟨rfl, rfl, rfl, rfl, rfl, rfl, rfl⟩

/-- R27: an operation only appends to TXLOG. -/
theorem effect_txlog {s t : State} {i : Instr} (h : Effect s i t) : ∃ sent, t.txlog = s.txlog ++ sent := by
  cases h
  case command c _ _ _ => exact ⟨commandFrame c, rfl⟩
  case sendbyte b => exact ⟨[b], rfl⟩
  case sendblk p _ _ _ _ _ _ => exact ⟨dataBlock p, rfl⟩
  case sendframe p _ _ _ _ => exact ⟨dataBlock p, rfl⟩
  case sendaddr => exact ⟨dataBlock (be32 s.addr), rfl⟩
  case synchronised => exact ⟨_, rfl⟩
  case unsynchronised => exact ⟨_, rfl⟩
  case sentinel => exact ⟨_, List.append_assoc ..⟩
  all_goals exact ⟨[], (List.append_nil _).symm⟩

/-- Settles O52, from the frame of an operation's effect. -/
theorem operationsKeepHostRegisters : Obligations.OperationsKeepHostRegisters := fun _ _ _ h =>
  ⟨effect_idle (exec_effect h), effect_keeps_host (exec_effect h)⟩

/-! ### WERR, the latched operation and TXLOG along a step -/

/-- R24, R38, R41: WERR after a step is WERR before it, unless the step drops a write or resets. -/
theorem turn_werr {s t : State} (h : Turn s t) :
    t.werr = s.werr ∨
      (s.isBusy = true ∧ t.werr = true ∧ ∃ off bits v rest, s.inputs = .write off bits v :: rest) ∨
      (t.werr = false ∧ ∃ rest, s.inputs = .reset :: rest) := by
  cases h with
  | ran r i _ _ _ he =>
    obtain ⟨_, _, _, hw, _⟩ := effect_keeps_host (exec_effect he)
    exact .inl hw
  | stored => exact .inl (State.storeTarget_werr ..)
  | dropped off bits v rest hb hi => exact .inr (.inl ⟨hb, rfl, off, bits, v, rest, hi⟩)
  | expected => exact .inl (State.expectResult_werr ..)
  | resetInput rest hi => exact .inr (.inr ⟨rfl, rest, hi⟩)
  | illegal | looked | waited | idle => exact .inl rfl

/-- Settles O48, from the three ways a step leaves WERR. -/
theorem werrSetOnlyByDroppedWrite : Obligations.WerrSetOnlyByDroppedWrite := by
  intro s t h
  rcases turn_werr (step_turn h) with hkept | ⟨hb, hset, hw⟩ | ⟨hclear, hr⟩
  · exact ⟨fun h0 h1 => by simp [hkept, h0] at h1, fun h1 h0 => by simp [hkept, h1] at h0⟩
  · exact ⟨fun _ _ => ⟨hb, hw⟩, fun _ h0 => by simp [hset] at h0⟩
  · exact ⟨fun _ h1 => by simp [hclear] at h1, fun _ _ => hr⟩

/-- R39, R70, R215: a step that leaves an operation latched either leaves the phase as it was or is an OPREQ write while
IDLE, which latches its word. -/
theorem turn_latched {s t : State} {r : Request} (h : Turn s t) (hr : t.phase = .busy r) :
    s.phase = .busy r ∨
      s.phase = .idle ∧ ∃ w rest, s.inputs = .write 0x00 32 w :: rest ∧ r = .opreq w ∧ t.opreq = w := by
  cases h with
  | ran r' i _ _ _ he => simp [effect_idle (exec_effect he)] at hr
  | illegal => cases hr
  | stored off bits v tg rest hb hi ht =>
    rw [State.storeTarget_phase] at hr
    split at hr
    · next htg =>
      subst htg
      obtain ⟨rfl, rfl⟩ := target_opreq ht
      cases hr
      exact .inr ⟨hb, v, rest, hi, rfl, rfl⟩
    · exact .inl hr
  | expected q rest => exact .inl (by rwa [State.expectResult_phase] at hr)
  | resetInput => cases hr
  | dropped | looked | waited | idle => exact .inl hr

/-- Settles O50, from the two ways a step leaves an operation latched. -/
theorem onlyOpreqWriteStartsOperation : Obligations.OnlyOpreqWriteStartsOperation := by
  intro s t r h hr
  rcases turn_latched (step_turn h) hr with hbusy | ⟨hidle, hwrite⟩
  · exact ⟨fun h0 => by simp [h0] at hbusy, fun q hq => by simpa [hq] using hbusy.symm⟩
  · exact ⟨fun _ => hwrite, fun q hq => by simp [hq] at hidle⟩

/-- Settles O51: an operation appends, and every other step but a reset leaves TXLOG. -/
theorem txlogOnlyGrows : Obligations.TxlogOnlyGrows := by
  intro s t h hreset
  cases step_turn h with
  | ran r i _ _ _ he => exact effect_txlog (exec_effect he)
  | stored => exact ⟨[], by simp⟩
  | expected => exact ⟨[], by simp⟩
  | resetInput rest hi => exact absurd hi (hreset rest)
  | illegal | dropped | looked | waited | idle => exact ⟨[], (List.append_nil _).symm⟩

/-! ### A polling HOST -/

/-- R240: inputs that poll while an operation runs do so when none runs. -/
theorem polls_idle_of_polls {b : Bool} {xs : List Input} (h : polls b xs = true) : polls false xs = true := by
  induction xs with
  | nil => rfl
  | cons x xs ih =>
    cases x with
    | write off bits v =>
      cases b with
      | false => exact h
      | true => cases h
    | read off bits => exact ih h
    | wait | expect | reset => exact h

/-- R240, R85: what an aborted program leaves of a polling HOST's inputs polls. -/
theorem polls_dropWhile {b : Bool} {xs : List Input} (h : polls b xs = true) :
    polls false (xs.dropWhile (fun i => decide (i ≠ .reset))) = true := by
  induction xs generalizing b with
  | nil => rfl
  | cons x xs ih =>
    cases x with
    | write off bits v => exact ih (Bool.and_eq_true_iff.1 h).2
    | read | wait | expect => exact ih h
    | reset => exact h

/-- R41: a HOST that polls has no write next while BUSY. -/
theorem State.Disciplined.not_write {s : State} (hd : s.Disciplined) (hb : s.isBusy = true) (off bits : Nat) (v : Word)
    (rest : List Input) : s.inputs ≠ .write off bits v :: rest := by
  intro hi
  rw [State.Disciplined, hb, hi] at hd
  cases hd

/-- R240: an IDLE state whose inputs poll is a polling HOST's. -/
theorem State.disciplined_of_idle {s : State} (hp : s.phase = .idle) (h : polls false s.inputs = true) :
    s.Disciplined := by
  rwa [State.Disciplined, State.isBusy_of_idle hp]

/-- R240: every step of a polling HOST's machine leaves one. -/
theorem turn_disciplined {s t : State} (h : Turn s t) (hd : s.Disciplined) : t.Disciplined := by
  have hpoll : polls s.isBusy s.inputs = true := hd
  cases h with
  | ran r i _ _ _ he =>
    obtain ⟨_, _, _, _, hin, _⟩ := effect_keeps_host (exec_effect he)
    exact State.disciplined_of_idle (effect_idle (exec_effect he)) (by rw [hin]; exact polls_idle_of_polls hpoll)
  | illegal => exact State.disciplined_of_idle rfl (polls_idle_of_polls hpoll)
  | stored off bits v tg rest hb hi ht =>
    rw [hi, polls, ht] at hpoll
    obtain ⟨_, hrest⟩ := Bool.and_eq_true_iff.1 hpoll
    by_cases htg : tg = .opreq
    · subst htg
      exact hrest
    · have hne : (some tg == some Target.opreq) = false := by simp [htg]
      rw [hne] at hrest
      exact State.disciplined_of_idle (by rw [State.storeTarget_phase, if_neg htg]; exact hb)
        (by rwa [State.storeTarget_inputs])
  | dropped off bits v rest hb hi => exact absurd hi (hd.not_write hb off bits v rest)
  | looked off bits v tg rest hi => rwa [hi] at hpoll
  | waited rest hb hi => exact State.disciplined_of_idle hb (by rwa [hi, polls] at hpoll)
  | expected q rest hb hi =>
    rw [hi, polls] at hpoll
    refine State.disciplined_of_idle (by rwa [State.expectResult_phase]) ?_
    unfold State.expectResult
    split
    · exact hpoll
    · exact polls_dropWhile hpoll
  | resetInput rest hi => exact State.disciplined_of_idle rfl (by rwa [hi, polls] at hpoll)
  | idle => exact hd

/-- Settles O47: what is to come keeps polling, and a polling HOST has no write next while BUSY. -/
theorem pollingHostDropsNoWrite : Obligations.PollingHostDropsNoWrite := by
  intro s t hd h
  refine ⟨turn_disciplined (step_turn h) hd, fun ht => ?_⟩
  rcases turn_werr (step_turn h) with hkept | ⟨hb, _, off, bits, v, rest, hi⟩ | ⟨hclear, _⟩
  · rwa [hkept] at ht
  · exact absurd hi (hd.not_write hb off bits v rest)
  · rw [hclear] at ht
    cases ht

/-! ### A reset, and a write while BUSY -/

/-- R230, R231: a reset takes effect at once, in either phase. -/
theorem step_reset {s : State} {rest : List Input} (hi : s.inputs = .reset :: rest) :
    step s = .next { s with inputs := rest }.platformReset := by
  unfold step State.move
  rcases s.mover_cases with ⟨r, _, _, h⟩ | ⟨i, rest, h, hm, _⟩ | ⟨_, h, _⟩ <;> rw [hi] at h
  · simp at h
  · cases h
    rw [hm]
    rfl
  · cases h

/-- R24, R40: STATUS reads 0 after a reset. -/
theorem State.platformReset_statusWord (s : State) : s.platformReset.statusWord = 0 := by
  change statusBits 0 0 0x00 .ok false false = 0
  decide

/-- R40: a reset gives every piece of the FRAMER's state its reset value. -/
theorem State.platformReset_hasResetValues (s : State) : s.platformReset.HasResetValues :=
  ⟨rfl, rfl, State.platformReset_statusWord s, rfl, rfl, rfl, rfl, rfl, rfl, rfl, rfl, rfl, rfl, rfl, rfl,
    fun _ => rfl, rfl, rfl⟩

/-- Settles O8: the values of a reset, for the reset state and for a reset input. -/
theorem resetInputRestoresResetValues : Obligations.ResetInputRestoresResetValues :=
  ⟨State.platformReset_hasResetValues State.reset, fun s rest hi =>
    ⟨_, step_reset hi, rfl, State.platformReset_hasResetValues { s with inputs := rest }⟩⟩

/-- Settles O43: an admitted write reaches a target, and BUSY drops it whatever the target is. -/
theorem busyWritesAreDropped : Obligations.BusyWritesAreDropped := by
  intro s r off bits v rest hb hi hadm
  obtain ⟨tg, ht⟩ := target_of_admitted hadm
  simp [step_write hi, State.hostWrite, ht, hb, State.dropWrite]

end Sys2Proof.Machine
end

section
/-! The HOST's reads and its writes while IDLE (R22 to R37, R41, R54): which state an access leaves, and what each register
and each buffer cell reads as in either phase. -/

namespace Sys2Proof.Machine

/-! ### The state an admitted read leaves -/

/-- R54, R202: an admitted read is recorded and meets at most one unwritten cell. -/
theorem step_read_admitted {s : State} {off bits : Nat} {rest : List Input} {tg : Target}
    (hi : s.inputs = .read off bits :: rest) (ht : target off bits = some tg) :
    step s = .next { s.mark (tg.unwritten s.mem) with
      inputs := rest, readlog := s.readlog ++ [(off, s.readTarget off tg)] } := by
  simp only [step_read hi, State.hostRead, ht]
  rfl

/-- R54: a read of a register is recorded and changes nothing else. -/
theorem step_read_word {s : State} {off : Nat} {rest : List Input} (hi : s.inputs = .read off 32 :: rest)
    (h4 : off % 4 = 0) (hle : off ≤ 0xFC) :
    step s = .next { s with inputs := rest, readlog := s.readlog ++ [(off, s.readTarget off (wordTarget off))] } := by
  rw [step_read_admitted hi (target_word h4 hle), wordTarget_written, State.mark_false]

/-- What is read while IDLE. -/
theorem State.readTarget_idle {s : State} (h : s.phase = .idle) (off : Nat) (tg : Target) :
    s.readTarget off tg = s.peek tg := by
  simp only [State.readTarget, h]

/-- What is read while BUSY. -/
theorem State.readTarget_busy {s : State} {r : Request} (h : s.phase = .busy r) (off : Nat) (tg : Target) :
    s.readTarget off tg = s.peekBusy r (Config.busyRead s.peer s.readlog.length off) tg := by
  simp only [State.readTarget, h]

/-- A phase is IDLE, or an operation is latched. -/
theorem State.phase_cases (s : State) : s.phase = .idle ∨ ∃ r, s.phase = .busy r := by
  cases s.phase with
  | idle => exact .inl rfl
  | busy r => exact .inr ⟨r, rfl⟩

/-! ### STATUS -/

/-- A flag as a bit. -/
theorem ofBool_eq_ite (b : Bool) : BitVec.ofBool b = if b then 1 else 0 := by cases b <;> rfl

/-- R25: the number of every result. -/
theorem Res.code_eq (r : Res) : r.code = (match r with
    | .ok => 0 | .nack => 1 | .unexpected => 2 | .timeout => 3 | .hsfail => 4 | .short => 5 | .elen => 6 | .illegal => 7) := by
  cases r <;> rfl

/-- Settles O37, from the fields of the STATUS word. -/
theorem statusReadLayout : Obligations.StatusReadLayout := by
  intro s rest hidle hi
  refine ⟨_, step_read_word hi rfl (by decide), ?_⟩
  rw [State.readTarget_idle hidle]
  obtain ⟨hbusy, hwerr, h2, hres, hraw, hato, hatt, h24⟩ := statusBits_fields s.att s.ato s.raw s.res s.werr s.isBusy
  exact ⟨hbusy.trans (congrArg BitVec.ofBool (State.isBusy_of_idle hidle)), hwerr.trans (ofBool_eq_ite _), h2,
    hres.trans (Res.code_eq _), hraw, hato, hatt, h24⟩

/-- Settles O40, from the fields of the STATUS word and the ranges of the counters that may be counting. -/
theorem statusReadWhileBusy : Obligations.StatusReadWhileBusy := by
  intro s r rest hb hi
  refine ⟨_, step_read_word hi rfl (by decide), ?_⟩
  rw [State.readTarget_busy hb]
  generalize Config.busyRead s.peer s.readlog.length 0x04 = free
  obtain ⟨hbusy, hwerr, h2, hres, hraw, hato, hatt, h24⟩ :=
    statusBits_fields (s.busyAtt r free) (s.busyAto r free) s.raw s.res s.werr s.isBusy
  refine ⟨hbusy.trans (congrArg BitVec.ofBool (State.isBusy_of_busy hb)), hwerr.trans (ofBool_eq_ite _), h2,
    hres.trans (Res.code_eq _), hraw, h24, ?_, ?_, ?_, ?_⟩
  · exact fun h => hato.trans (s.busyAto_kept free h)
  · exact fun h => (congrArg BitVec.toNat hato).trans_le (s.busyAto_le free h)
  · exact fun h h' => hatt.trans (s.busyAtt_kept free h h')
  · exact fun h => (congrArg BitVec.toNat hatt).trans_le (s.busyAtt_le free h)

/-! ### The other registers -/

/-- R22: the register at a word offset is the one R22 lists, or the offset is reserved. -/
theorem wordTarget_cases (off : Nat) :
    (off = 0x00 ∧ wordTarget off = .opreq) ∨ (off = 0x04 ∧ wordTarget off = .status) ∨
    (off = 0x08 ∧ wordTarget off = .addr) ∨ (off = 0x0C ∧ wordTarget off = .plen) ∨
    (off = 0x10 ∧ wordTarget off = .cksum) ∨ (off = 0x14 ∧ wordTarget off = .cmpl) ∨
    (off = 0x18 ∧ wordTarget off = .rinfo) ∨ (off = 0x1C ∧ wordTarget off = .tmo) ∨
    (off ∉ [0x00, 0x04, 0x08, 0x0C, 0x10, 0x14, 0x18, 0x1C] ∧ wordTarget off = .reserved) := by
  unfold wordTarget
  split_ifs <;> simp_all

/-- R23, R29 to R34, R37: what a register other than STATUS reads while IDLE, as a number. -/
theorem State.peek_wordTarget (s : State) {off : Nat} (h : off ≠ 0x04) :
    (s.peek (wordTarget off)).toNat =
      if off = 0x00 then s.opreq.toNat else if off = 0x08 then s.addr.toNat else if off = 0x0C then s.plen.toNat
      else if off = 0x10 then s.cksum.toNat else if off = 0x14 then s.cmpl.toNat
      else if off = 0x18 then s.rcount.toNat * 0x100 + s.rl.toNat else if off = 0x1C then s.tmo.toNat else 0 := by
  have := length_toNat_lt s.plen
  have := byte_toNat_lt s.cksum
  have := byte_toNat_lt s.cmpl
  rcases wordTarget_cases off with ⟨rfl, e⟩ | ⟨rfl, e⟩ | ⟨rfl, e⟩ | ⟨rfl, e⟩ | ⟨rfl, e⟩ | ⟨rfl, e⟩ | ⟨rfl, e⟩ | ⟨rfl, e⟩ |
    ⟨hne, e⟩
  all_goals rw [e]
  · rfl
  · exact absurd rfl h
  · simp [State.peek]
  · simp [State.peek]; omega
  · simp [State.peek]; omega
  · simp [State.peek]; omega
  · simp [State.peek, rinfoBits_toNat]
  · rfl
  · simp_all [State.peek]

/-- R240: while BUSY the registers other than STATUS, CKSUM, CMPL and RINFO read as while IDLE. -/
theorem State.peekBusy_wordTarget (s : State) (r : Request) (free : Word) {off : Nat} (h : off ≠ 0x04)
    (hne : off ∉ [0x10, 0x14, 0x18]) : s.peekBusy r free (wordTarget off) = s.peek (wordTarget off) := by
  rcases wordTarget_cases off with ⟨rfl, e⟩ | ⟨rfl, e⟩ | ⟨rfl, e⟩ | ⟨rfl, e⟩ | ⟨rfl, e⟩ | ⟨rfl, e⟩ | ⟨rfl, e⟩ | ⟨rfl, e⟩ |
    ⟨_, e⟩
  all_goals rw [e]
  · rfl
  · exact absurd rfl h
  · rfl
  · rfl
  · simp at hne
  · simp at hne
  · simp at hne
  · rfl
  · rfl

/-- A byte in a word is below 0x100. -/
theorem byte_setWidth_lt (b : Byte) : (b.setWidth 32).toNat < 0x100 := by
  rw [BitVec.toNat_setWidth]
  exact (Nat.mod_le _ _).trans_lt (byte_toNat_lt b)

/-- R31, R32: CKSUM and CMPL read as a byte in either phase. -/
theorem State.readTarget_byte (s : State) {off : Nat} (h : off = 0x10 ∨ off = 0x14) :
    (s.readTarget off (wordTarget off)).toNat < 0x100 := by
  rcases s.phase_cases with hp | ⟨r, hp⟩
  · rw [State.readTarget_idle hp]
    rcases h with rfl | rfl
    · exact byte_setWidth_lt s.cksum
    · exact byte_setWidth_lt s.cmpl
  · rw [State.readTarget_busy hp]
    rcases h with rfl | rfl <;> exact byte_setWidth_lt _

/-- R33: RCOUNT as it reads while BUSY is at most 256. -/
theorem State.peekBusy_rinfo_le (s : State) (r : Request) (free : Word) :
    (s.peekBusy r free .rinfo).toNat / 0x100 ≤ 256 := by
  have hle := upTo_le 256 (free.extractLsb' 8 9).toNat
  have hb := byte_toNat_lt (free.extractLsb' 0 8)
  simp only [State.peekBusy, rinfoBits_toNat, Config.params_rbufSize, BitVec.toNat_ofNat]
  omega

/-- Settles O38: the registers' values, and the free ones while BUSY in their ranges. -/
theorem registerReadValues : Obligations.RegisterReadValues := by
  intro s off rest hi h4 hle hne
  refine ⟨_, step_read_word hi h4 hle, fun hcase => ?_, fun h => s.readTarget_byte h, ?_⟩
  · rw [← s.peek_wordTarget hne]
    rcases s.phase_cases with hp | ⟨r, hp⟩
    · rw [State.readTarget_idle hp]
    · have hoff : off ∉ [0x10, 0x14, 0x18] := hcase.resolve_left (by simp [hp])
      rw [State.readTarget_busy hp, s.peekBusy_wordTarget r _ hne hoff]
  · rintro rfl hbusy
    obtain ⟨r, hp⟩ := s.phase_cases.resolve_left hbusy
    rw [State.readTarget_busy hp]
    exact s.peekBusy_rinfo_le r _

/-! ### The buffers -/

/-- A byte in a word, by its number. -/
theorem byte_setWidth_eq (b : Byte) : b.setWidth 32 = BitVec.ofNat 32 b.toNat :=
  BitVec.eq_of_toNat_eq (by simp)

/-- R35, R36: the target of a buffer cell. -/
theorem target_cell {off : Nat} (h : (0x100 ≤ off ∧ off ≤ 0x1FF) ∨ (0x20000 ≤ off ∧ off ≤ 0x3FFFD)) :
    (off < 0x20000 ∧ target off 8 = some (.rbuf off)) ∨ (0x20000 ≤ off ∧ target off 8 = some (.pbuf off)) := by
  rcases target_cases off 8 with ⟨_, _, _, _⟩ | ⟨_, _, _, e⟩ | ⟨_, _, _, e⟩ | ⟨_, _, _, _⟩ | ⟨hn, _⟩
  · omega
  · exact .inl ⟨by omega, e⟩
  · exact .inr ⟨by omega, e⟩
  · omega
  · exact absurd (by rw [Admitted]; omega) hn

/-- R35, R36, R41: a cell reads as a byte; it is the cell's own while IDLE, and for PBUF in either phase. -/
theorem State.readTarget_cell (s : State) {off : Nat} {tg : Target}
    (h : (off < 0x20000 ∧ tg = .rbuf off) ∨ (0x20000 ≤ off ∧ tg = .pbuf off)) :
    ∃ c : Byte, s.readTarget off tg = BitVec.ofNat 32 c.toNat ∧ (s.phase = .idle ∨ 0x20000 ≤ off → c = s.cell off) := by
  rcases s.phase_cases with hp | ⟨r, hp⟩
  · refine ⟨s.cell off, ?_, fun _ => rfl⟩
    rw [State.readTarget_idle hp]
    rcases h with ⟨_, rfl⟩ | ⟨_, rfl⟩ <;> exact byte_setWidth_eq _
  · rw [State.readTarget_busy hp]
    rcases h with ⟨hlt, rfl⟩ | ⟨_, rfl⟩
    · refine ⟨(Config.busyRead s.peer s.readlog.length off).extractLsb' 0 8, byte_setWidth_eq _, ?_⟩
      rintro (h | h)
      · rw [hp] at h
        cases h
      · omega
    · exact ⟨s.cell off, byte_setWidth_eq _, fun _ => rfl⟩

/-- R54, R202: an 8-bit read of a cell is recorded, and an unwritten cell marks the run. -/
theorem step_read_cell {s : State} {off : Nat} {rest : List Input} (hi : s.inputs = .read off 8 :: rest)
    (h : (0x100 ≤ off ∧ off ≤ 0x1FF) ∨ (0x20000 ≤ off ∧ off ≤ 0x3FFFD)) :
    ∃ c : Byte, step s = .next { s.mark (Memory.read s.mem off).isNone with
        inputs := rest, readlog := s.readlog ++ [(off, BitVec.ofNat 32 c.toNat)] } ∧
      (s.phase = .idle ∨ 0x20000 ≤ off → c = s.cell off) := by
  rcases target_cell h with ⟨hoff, ht⟩ | ⟨hoff, ht⟩
  · obtain ⟨c, hc, hval⟩ := s.readTarget_cell (.inl ⟨hoff, rfl⟩)
    exact ⟨c, by rw [step_read_admitted hi ht, hc]; rfl, hval⟩
  · obtain ⟨c, hc, hval⟩ := s.readTarget_cell (.inr ⟨hoff, rfl⟩)
    exact ⟨c, by rw [step_read_admitted hi ht, hc]; rfl, hval⟩

/-- R37, R41: the two reserved bytes read 0 in either phase. -/
theorem step_read_reserved_byte {s : State} {off : Nat} {rest : List Input} (hi : s.inputs = .read off 8 :: rest)
    (h : off = 0x3FFFE ∨ off = 0x3FFFF) :
    step s = .next { s with inputs := rest, readlog := s.readlog ++ [(off, 0)] } := by
  have ht : target off 8 = some .reserved := by rcases h with rfl | rfl <;> rfl
  have hv : s.readTarget off .reserved = 0 := by
    rcases s.phase_cases with hp | ⟨r, hp⟩
    · rw [State.readTarget_idle hp]; rfl
    · rw [State.readTarget_busy hp]; rfl
  rw [step_read_admitted hi ht, hv]
  exact congrArg (fun u : State => Host.Outcome.next { u with inputs := rest, readlog := s.readlog ++ [(off, 0)] })
    s.mark_false

/-- Settles O39: a written cell, an unwritten one, and the reserved bytes. -/
theorem bufferReadValues : Obligations.BufferReadValues := by
  intro s off rest hi
  refine ⟨fun hcell => ?_, step_read_reserved_byte hi⟩
  obtain ⟨c, hstep, hval⟩ := step_read_cell hi hcell
  refine ⟨fun b hb => ⟨c, ?_, fun h => (hval h).trans (State.cell_written hb)⟩, fun hn => ⟨c, ?_⟩⟩
  · rw [hstep, hb, Option.isNone_some, State.mark_false]
  · rw [hstep, hn, Option.isNone_none]

/-! ### Writes while IDLE -/

/-- An admitted write while IDLE stores at its target. -/
theorem step_write_idle {s : State} {off bits : Nat} {v : Word} {rest : List Input} {tg : Target} (hp : s.phase = .idle)
    (hi : s.inputs = .write off bits v :: rest) (ht : target off bits = some tg) :
    step s = .next ({ s with inputs := rest }.storeTarget tg v) := by
  simp only [step_write hi, State.hostWrite, ht, hp]

/-- R29, R30, R34, R41: what a write to a register other than OPREQ stores. -/
theorem State.storeTarget_word (s : State) {off : Nat} (v : Word) (h : off ≠ 0x00) :
    s.storeTarget (wordTarget off) v = { s with
      addr := if off = 0x08 then v else s.addr
      plen := if off = 0x0C then BitVec.ofNat 17 v.toNat else s.plen
      tmo := if off = 0x1C then v else s.tmo } := by
  rcases wordTarget_cases off with ⟨rfl, e⟩ | ⟨rfl, e⟩ | ⟨rfl, e⟩ | ⟨rfl, e⟩ | ⟨rfl, e⟩ | ⟨rfl, e⟩ | ⟨rfl, e⟩ | ⟨rfl, e⟩ |
    ⟨hne, e⟩
  all_goals rw [e]
  · exact absurd rfl h
  all_goals simp_all [State.storeTarget]

/-- Settles O42, by the kinds of access R53 admits. -/
theorem idleWritesStore : Obligations.IdleWritesStore := by
  intro s off bits v rest hp hi hadm hne
  have hregs (m : Memory) (hbyte : 0x100 ≤ off) : ({ s with inputs := rest, mem := m } : State) = { s with
      inputs := rest, mem := m
      addr := if off = 0x08 then v else s.addr
      plen := if off = 0x0C then BitVec.ofNat 17 v.toNat else s.plen
      tmo := if off = 0x1C then v else s.tmo } := by
    rw [if_neg (by omega), if_neg (by omega), if_neg (by omega)]
  rcases target_cases off bits with ⟨_, _, hle, e⟩ | ⟨_, hlo, hhi, e⟩ | ⟨hb, hlo, hhi, e⟩ | ⟨_, hlo, _, e⟩ | ⟨hn, _⟩
  · refine ⟨_, step_write_idle hp hi e, fun a => ?_, ?_⟩
    · rw [if_neg (by omega), State.storeTarget_word _ v hne]
    · rw [State.storeTarget_word _ v hne]
  · exact ⟨_, step_write_idle hp hi e, fun a => by rw [if_neg (by omega)]; rfl, hregs s.mem hlo⟩
  · refine ⟨_, step_write_idle hp hi e, fun a => ?_, hregs _ (by omega)⟩
    refine (Memory.read_write s.mem off a (v.setWidth 8)).trans ?_
    by_cases ha : a = off
    · rw [if_pos ha, if_pos ⟨hb, ha, hlo, hhi⟩]; rfl
    · rw [if_neg ha, if_neg (by omega)]
  · exact ⟨_, step_write_idle hp hi e, fun a => by rw [if_neg (by omega)]; rfl, hregs s.mem (by omega)⟩
  · exact absurd hadm hn

end Sys2Proof.Machine
end

section
/-! What an operation reads under and writes (R31 to R34, R36, R154), and that what it sends does not depend on the PEER
(R28, R58). -/

namespace Sys2Proof.Machine

/-! ### Which instructions send a command or a sentinel -/

/-- R75, R110: a command frame is SENDCMD's or one of the command patterns. -/
theorem commandOf_cases {i : Instr} {c : Byte} (h : commandOf i = some c) :
    i = .sendcmd c ∨ i ∈ [.cmdGet, .cmdGetId, .cmdRead, .cmdGo, .cmdWrite, .cmdErase, .cmdEraseExtended] := by
  cases i <;> simp_all [commandOf]

/-- R80: a sentinel is one of the sentinel patterns. -/
theorem sentinelOf_mem {i : Instr} {v : Half} (h : sentinelOf i = some v) :
    i ∈ [.sentinelMass, .sentinelBank1, .sentinelBank2] := by
  cases i <;> simp_all [sentinelOf]

/-! ### The timeouts of the reads -/

/-- R34, R154: the timeout an instruction's reads are made under. -/
abbrev readTimeout (i : Instr) (tmo : Word) : Word := if i = .handshake ∨ i = .init then 1000 else tmo

/-- R34, R154: every read an operation makes has the operation's timeout. -/
theorem effect_timeouts {s t : State} {i : Instr} (h : Effect s i t) :
    ∃ heard, t.rxlog = s.rxlog ++ heard ∧ ∀ r ∈ heard, r.timeout = readTimeout i s.tmo := by
  cases h
  case command c a _ hc =>
    have hi : ¬(i = .handshake ∨ i = .init) := by rintro (rfl | rfl) <;> cases hc
    exact ⟨[_], rfl, by simp [readTimeout, hi]⟩
  case control b hb =>
    have hi : ¬(i = .handshake ∨ i = .init) := by rintro (rfl | rfl) <;> simp at hb
    exact ⟨[_], rfl, by simp [readTimeout, hi]⟩
  case synchronised ws _ _ hi =>
    refine ⟨_, rfl, fun r hr => ?_⟩
    obtain ⟨j, _, rfl⟩ := List.mem_mapIdx.1 hr
    simp [readTimeout, hi]
  case unsynchronised ws w _ hi =>
    refine ⟨_, rfl, fun r hr => ?_⟩
    obtain ⟨j, _, rfl⟩ := List.mem_mapIdx.1 hr
    simp [readTimeout, hi]
  case sendblk | sendaddr | waitack | readraw | noResponse => exact ⟨[_], rfl, by simp [readTimeout]⟩
  case shortResponse => exact ⟨[_, _], rfl, by simp [readTimeout]⟩
  case response => exact ⟨[_, _, _], rfl, by simp [readTimeout]⟩
  case tolerated => exact ⟨_, rfl, by simp [readTimeout, or_imp, forall_and]⟩
  case toleratedAll => exact ⟨_, rfl, by simp [readTimeout]⟩
  all_goals exact ⟨[], (List.append_nil _).symm, nofun⟩

/-- Settles O59, from the frame of an operation's effect and the timeouts of its reads. -/
theorem readTimeouts : Obligations.ReadTimeouts := by
  intro i s t h
  obtain ⟨_, htmo, _⟩ := effect_keeps_host (exec_effect h)
  exact ⟨htmo, effect_timeouts (exec_effect h)⟩

/-! ### Who writes CKSUM, CMPL, RINFO and RBUF -/

/-- R31: only the operations that fold a payload change CKSUM. -/
theorem effect_cksum {s t : State} {i : Instr} (h : Effect s i t)
    (hi : i ∉ [.ckxor, .sendblk, .sendframe, .sendaddr, .sentinelMass, .sentinelBank1, .sentinelBank2]) :
    t.cksum = s.cksum := by
  cases h
  case ckxor | sendblk | sendframe | sendaddr => simp at hi
  case sentinel hv =>
    exact (hi (List.mem_append_right [Instr.ckxor, .sendblk, .sendframe, .sendaddr] (sentinelOf_mem hv))).elim
  all_goals rfl

/-- R32: only COMPL and the operations that send a command frame change CMPL. -/
theorem effect_cmpl {s t : State} {i : Instr} (h : Effect s i t) (hc : ∀ b, i ≠ .compl b ∧ i ≠ .sendcmd b)
    (hi : i ∉ [.cmdGet, .cmdGetId, .cmdRead, .cmdGo, .cmdWrite, .cmdErase, .cmdEraseExtended]) : t.cmpl = s.cmpl := by
  cases h
  case compl b => exact absurd rfl (hc b).1
  case command c a _ hcmd => exact ((commandOf_cases hcmd).elim (hc c).2 hi).elim
  all_goals rfl

/-- R36: a run of writes in PBUF leaves every cell below it. -/
theorem Memory.read_writeList_below {m : Memory} {off a : Nat} (bs : List Byte) (h : a < off) :
    Memory.read (Memory.writeList m off bs) a = Memory.read m a := by
  rw [Memory.read_writeList, if_neg (by omega)]

/-- R33, R36: only READRESP and READRAW change RINFO and a cell below PBUF. -/
theorem effect_rbuf {s t : State} {i : Instr} (h : Effect s i t) (hraw : ∀ n, i ≠ .readraw n) (hresp : i ≠ .readresp) :
    t.rl = s.rl ∧ t.rcount = s.rcount ∧ ∀ a, a < 0x20000 → Memory.read t.mem a = Memory.read s.mem a := by
  cases h
  case readraw n _ _ _ => exact absurd rfl (hraw n)
  case noResponse | shortResponse | response => exact absurd rfl hresp
  case append bs _ _ => exact ⟨rfl, rfl, fun a ha => Memory.read_writeList_below bs (by omega)⟩
  case sentinel v _ => exact ⟨rfl, rfl, fun a ha => Memory.read_writeList_below (be16 v) ha⟩
  all_goals exact ⟨rfl, rfl, fun _ _ => rfl⟩

/-- Settles O60, register by register. -/
theorem dataRegisterWriters : Obligations.DataRegisterWriters := fun _ _ _ h =>
  ⟨effect_cksum (exec_effect h), effect_cmpl (exec_effect h), effect_rbuf (exec_effect h)⟩

/-! ### Independence of the PEER -/

/-- R28: the same machine before another PEER, with other answers written down and another history. -/
def State.facing (s : State) (rx : List (List Byte)) (p : Nat) (heard : List RxRead) : State :=
  { s with rxnext := rx, peer := p, rxlog := heard }

/-- R58: two states agree on what has been sent, on PLEN, CKSUM, CMPL and the fault mark, and on every cell of PBUF. -/
structure SentAlike (t u : State) : Prop where
  txlog : u.txlog = t.txlog
  plen : u.plen = t.plen
  cksum : u.cksum = t.cksum
  cmpl : u.cmpl = t.cmpl
  faultMark : u.faultMark = t.faultMark
  pbuf : ∀ a, 0x20000 ≤ a → Memory.read u.mem a = Memory.read t.mem a

theorem SentAlike.symm {t u : State} (h : SentAlike t u) : SentAlike u t :=
  ⟨h.txlog.symm, h.plen.symm, h.cksum.symm, h.cmpl.symm, h.faultMark.symm, fun a ha => (h.pbuf a ha).symm⟩

theorem SentAlike.trans {t u v : State} (h : SentAlike t u) (k : SentAlike u v) : SentAlike t v :=
  ⟨k.txlog.trans h.txlog, k.plen.trans h.plen, k.cksum.trans h.cksum, k.cmpl.trans h.cmpl,
    k.faultMark.trans h.faultMark, fun a ha => (k.pbuf a ha).trans (h.pbuf a ha)⟩

/-- The operations that only receive (R78, R151, R152, R170, R172). -/
def onlyReceives (i : Instr) : Bool :=
  match i with
  | .waitack => true
  | .waitacktol => true
  | .readresp => true
  | .readraw _ => true
  | .ack => true
  | .nack => true
  | _ => false

/-- R58: an operation that only receives appends nothing to the payload and sends no command and no sentinel. -/
theorem sendsNothing_of_onlyReceives {i : Instr} (s : State) (h : onlyReceives i = true) :
    appended s i = none ∧ commandOf i = none ∧ sentinelOf i = none := by
  cases i with
  | waitack | waitacktol | readresp | readraw | ack | nack => exact ⟨rfl, rfl, rfl⟩
  | _ => cases h

/-- R36: a run of at most 256 bytes written at the start of RBUF leaves every cell of PBUF. -/
theorem Memory.read_writeList_rbuf {m : Memory} {a : Nat} {bs : List Byte} (hb : bs.length ≤ 256) (h : 0x20000 ≤ a) :
    Memory.read (Memory.writeList m 0x100 bs) a = Memory.read m a := by
  rw [Memory.read_writeList, if_neg (by omega)]

/-- R58: an operation that only receives leaves everything an operation sends or computes. -/
theorem effect_sentAlike {s t : State} {i : Instr} (h : Effect s i t) (hi : onlyReceives i = true) : SentAlike s t := by
  obtain ⟨happ, hcmd, hsent⟩ := sendsNothing_of_onlyReceives s hi
  cases h
  case append hbs => simp [happ] at hbs
  case command hc => simp [hcmd] at hc
  case sentinel hv => simp [hsent] at hv
  case synchronised h => rcases h with rfl | rfl <;> cases hi
  case unsynchronised h => rcases h with rfl | rfl <;> cases hi
  case shortResponse len p hp =>
    have := byte_toNat_lt len
    exact ⟨rfl, rfl, rfl, rfl, rfl, fun a ha => Memory.read_writeList_rbuf (by omega) ha⟩
  case response len p a hp _ =>
    have := byte_toNat_lt len
    exact ⟨rfl, rfl, rfl, rfl, rfl, fun a ha => Memory.read_writeList_rbuf (by omega) ha⟩
  case readraw n p _ _ => exact ⟨rfl, rfl, rfl, rfl, rfl, fun a ha => Memory.read_writeList_rbuf (by omega) ha⟩
  case nop | ckxor | compl | clrbuf | sendbyte | sendblk | sendframe | sendaddr => cases hi
  all_goals exact ⟨rfl, rfl, rfl, rfl, rfl, fun _ _ => rfl⟩

section Facing

variable (s : State) (rx : List (List Byte)) (p : Nat) (heard : List RxRead)

theorem sentAlike_facing : SentAlike s (s.facing rx p heard) := ⟨rfl, rfl, rfl, rfl, rfl, fun _ _ => rfl⟩

/-- R58: an operation that only receives, before two PEERs. -/
theorem sentAlike_of_onlyReceives {s t u : State} {i : Instr} (hi : onlyReceives i = true) (ht : exec i s = .next t)
    (hu : exec i (s.facing rx p heard) = .next u) : SentAlike t u :=
  (effect_sentAlike (exec_effect ht) hi).symm.trans
    ((sentAlike_facing s rx p heard).trans (effect_sentAlike (exec_effect hu) hi))

/-- R58: an acknowledgment read, before two PEERs. -/
theorem sentAlike_ackDetect (t : Word) : SentAlike (s.ackDetect t) ((s.facing rx p heard).ackDetect t) := by
  rw [State.ackDetect_eq, State.ackDetect_eq]
  exact ⟨rfl, rfl, rfl, rfl, rfl, fun _ _ => rfl⟩

/-- R58, R110: a command frame and its acknowledgment, before two PEERs. -/
theorem sentAlike_sendCommand (c : Byte) : SentAlike (s.sendCommand c) ((s.facing rx p heard).sendCommand c) :=
  sentAlike_ackDetect (State.transmit { s with cmpl := cpl c } (commandFrame c)) rx p heard s.tmo

/-- R28, R58: what is read of the payload does not depend on the PEER, so an operation over it leaves alike states when it
goes on alike. -/
theorem sentAlike_withPayload (lo : Nat) (k : State → List Byte → State)
    (hk : ∀ (t : State) (q : List Byte), SentAlike (k t q) (k (t.facing rx p heard) q)) :
    SentAlike (s.withPayload lo k) ((s.facing rx p heard).withPayload lo k) := by
  have hplen : (s.facing rx p heard).plen = s.plen := rfl
  simp only [State.withPayload, hplen]
  split
  · exact sentAlike_facing (s.finish .elen 0x00) rx p heard
  · exact hk (s.mark _) _

/-- R122, R123, R125: an append does not depend on the PEER. -/
theorem facing_appendPayload (bs : List Byte) :
    (s.facing rx p heard).appendPayload bs = (s.appendPayload bs).facing rx p heard := by
  have hplen : (s.facing rx p heard).plen = s.plen := rfl
  simp only [State.appendPayload, hplen]
  split <;> rfl

/-- R122, R123, R125: an append, before two PEERs. -/
theorem sentAlike_appendPayload (bs : List Byte) :
    SentAlike (s.appendPayload bs) ((s.facing rx p heard).appendPayload bs) := by
  rw [facing_appendPayload]
  exact sentAlike_facing _ rx p heard

/-- R80: a sentinel frame, before two PEERs. -/
theorem sentAlike_sendSentinel (v : Half) :
    SentAlike (s.sendSentinel v) ((s.facing rx p heard).sendSentinel v) := by
  rw [State.sendSentinel_eq, State.sendSentinel_eq]
  exact ⟨rfl, rfl, rfl, rfl, rfl, fun _ _ => rfl⟩

end Facing

/-- R28: every operation answers a next state, from every state. -/
theorem exec_next (i : Instr) (s : State) : ∃ t, exec i s = .next t := by cases i <;> exact ⟨_, rfl⟩

/-- R28, R58: outside HANDSHAKE (and INIT), an operation before two PEERs leaves states that agree on what it sends and
computes. -/
theorem exec_sentAlike {i : Instr} {s t u : State} (rx : List (List Byte)) (p : Nat) (heard : List RxRead)
    (h1 : i ≠ .handshake) (h2 : i ≠ .init) (ht : exec i s = .next t) (hu : exec i (s.facing rx p heard) = .next u) :
    SentAlike t u := by
  cases i
  case handshake => exact absurd rfl h1
  case init => exact absurd rfl h2
  case waitack | waitacktol | readresp | readraw | ack | nack => exact sentAlike_of_onlyReceives rx p heard rfl ht hu
  all_goals cases ht; cases hu
  case ckxor => exact sentAlike_withPayload s rx p heard _ _ fun t q => sentAlike_facing _ rx p heard
  case sendblk =>
    exact sentAlike_withPayload s rx p heard _ _ fun t q => sentAlike_ackDetect (t.sendBlock q) rx p heard t.tmo
  case sendframe => exact sentAlike_withPayload s rx p heard _ _ fun t q => sentAlike_facing _ rx p heard
  case sendaddr => exact sentAlike_ackDetect (s.sendBlock (be32 s.addr)) rx p heard s.tmo
  case put8 | put16be | put32be => exact sentAlike_appendPayload s rx p heard _
  case sendcmd | cmdGet | cmdGetId | cmdRead | cmdGo | cmdWrite | cmdErase | cmdEraseExtended =>
    exact sentAlike_sendCommand s rx p heard _
  case sentinelMass | sentinelBank1 | sentinelBank2 => exact sentAlike_sendSentinel s rx p heard _
  case nop | compl | clrbuf | sendbyte => exact sentAlike_facing _ rx p heard

/-- Settles O56: every arm answers a next state, and the states before two PEERs are alike. -/
theorem nextNeverDependsOnPeer : Obligations.NextNeverDependsOnPeer := by
  refine ⟨fun i s rx p heard => exec_next i _, fun i s t u rx p heard h1 h2 ht hu => ?_⟩
  obtain ⟨htx, hplen, hck, hcm, hmark, hpbuf⟩ := exec_sentAlike rx p heard h1 h2 ht hu
  exact ⟨htx, hplen, hck, hcm, hmark, hpbuf⟩

end Sys2Proof.Machine
end

section
/-! Which accesses have a step and what a read leaves (R52 to R54), what the step runs once an operation is waited for
(R57, R70, R73), and that an operation sends before it reads (R58). -/

namespace Sys2Proof.Machine

/-! ### When each byte was sent -/

/-- R58: outside HANDSHAKE (and INIT), every read is made when all of the operation's bytes stand in TXLOG. -/
theorem effect_reads_after_txlog {s t : State} {i : Instr} (h : Effect s i t) (hh : i ≠ .handshake) (hn : i ≠ .init) :
    ∃ heard, t.rxlog = s.rxlog ++ heard ∧ ∀ r ∈ heard, r.after = t.txlog.length := by
  cases h
  case synchronised hi => exact (hi.elim hh hn).elim
  case unsynchronised hi => exact (hi.elim hh hn).elim
  case command | sendblk | sendaddr | waitack | noResponse | readraw | control =>
    exact ⟨[_], rfl, by simp [State.afterAck]⟩
  case shortResponse => exact ⟨[_, _], rfl, by simp⟩
  case response => exact ⟨[_, _, _], rfl, by simp⟩
  case tolerated => exact ⟨_, rfl, by simp [or_imp, forall_and]⟩
  case toleratedAll => exact ⟨_, rfl, by simp⟩
  all_goals exact ⟨[], (List.append_nil _).symm, nofun⟩

/-- Settles O58, along the effects of an operation. -/
theorem transmissionPrecedesReception : Obligations.TransmissionPrecedesReception := fun _ _ _ hh hn h =>
  effect_reads_after_txlog (exec_effect h) hh hn

/-! ### Admitted accesses -/

/-- R53: what is not admitted reaches nothing, and nothing else does. -/
theorem target_eq_none_iff {off bits : Nat} : target off bits = none ↔ ¬ Admitted off bits := by
  rw [← target_ne_none, not_not]

/-- R52, R53: a HOST write stops the HOST exactly when it reaches nothing, in either phase. -/
theorem State.hostWrite_fault_iff (s : State) (off bits : Nat) (v : Word) :
    s.hostWrite off bits v = .fault (.notAdmitted off bits) ↔ target off bits = none := by
  cases ht : target off bits with
  | none => simp [State.hostWrite, ht]
  | some tg => rcases s.phase_cases with hp | ⟨r, hp⟩ <;> simp [State.hostWrite, ht, hp]

/-- R52, R53: a HOST read stops the HOST exactly when it reaches nothing. -/
theorem State.hostRead_fault_iff (s : State) (off bits : Nat) :
    s.hostRead off bits = .fault (.notAdmitted off bits) ↔ target off bits = none := by
  cases ht : target off bits <;> simp [State.hostRead, ht]

/-- Settles O44: either access takes effect at once, and stops exactly where R53 gives it no target. -/
theorem onlyAdmittedAccessesStep : Obligations.OnlyAdmittedAccessesStep := by
  refine fun s off bits v rest => ⟨fun hi => ?_, fun hi => ?_⟩
  · rw [step_write hi, State.hostWrite_fault_iff, target_eq_none_iff]
  · rw [step_read hi, State.hostRead_fault_iff, target_eq_none_iff]

/-! ### What a read leaves -/

/-- R202: only an 8-bit read of an unwritten buffer cell is a model fault. -/
theorem target_unwritten {off bits : Nat} {tg : Target} {m : Memory} (ht : target off bits = some tg)
    (hu : tg.unwritten m = true) : bits = 8 ∧ off ≤ 0x3FFFD ∧ Memory.read m off = none := by
  rcases target_cases off bits with ⟨_, _, _, e⟩ | ⟨hb, _, hhi, e⟩ | ⟨hb, _, hhi, e⟩ | ⟨_, _, _, e⟩ | ⟨_, e⟩
  all_goals cases e.symm.trans ht
  · simp [wordTarget_written] at hu
  · exact ⟨hb, by omega, Option.isNone_iff_eq_none.1 hu⟩
  · exact ⟨hb, hhi, Option.isNone_iff_eq_none.1 hu⟩
  · cases hu

/-- Settles O41: the read has a target, which is an unwritten cell or not. -/
theorem readsHaveNoSideEffect : Obligations.ReadsHaveNoSideEffect := by
  intro s t off bits rest hi h
  cases ht : target off bits with
  | none =>
    rw [step_read hi, (State.hostRead_fault_iff _ _ _).2 ht] at h
    cases h
  | some tg =>
    rw [step_read_admitted hi ht] at h
    cases h
    cases hu : tg.unwritten s.mem with
    | false => exact ⟨_, .inl (by rw [State.mark_false])⟩
    | true =>
      obtain ⟨hb, hle, hn⟩ := target_unwritten ht hu
      exact ⟨_, .inr ⟨hb, hle, hn, rfl⟩⟩

/-! ### What the step runs -/

/-- R57: the latched request runs once the HOST waits for it, or has nothing more to do. -/
theorem step_runs_request {s : State} {r : Request} (hb : s.phase = .busy r)
    (hi : s.inputs = [] ∨ (∃ rest, s.inputs = .wait :: rest) ∨ ∃ q rest, s.inputs = .expect q :: rest) :
    step s = s.runRequest r := by
  have hm : s.mover = .framer r := by
    rcases hi with h | ⟨rest, h⟩ | ⟨q, rest, h⟩ <;> simp [State.mover, hb, h]
  simp only [step, State.move, hm]

/-- Settles O5: the latched request is decoded and its meaning runs. -/
theorem stepRunsLatchedOperation : Obligations.StepRunsLatchedOperation := by
  intro s r i hb hd hi
  simp only [step_runs_request hb hi, State.runRequest, hd]

/-- R72, R73: a word whose operation code is none of R72's is rejected for that code. -/
theorem decode_unassigned {w : Word}
    (h : opcOf w ∉ [(0x00 : Byte), 0x01, 0x02, 0x08, 0x09, 0x0A, 0x0B, 0x10, 0x11, 0x18, 0x19, 0x1A, 0x20, 0x21, 0x22,
      0x30, 0x31]) : decode (.opreq w) = .error (.unassignedOpc (opcOf w)) := by
  cases hd : decodeOpreq w with
  | ok i => exact absurd (List.mem_map_of_mem (f := Prod.fst) (decodeOpreq_ok hd)) h
  | error r => exact hd.trans (congrArg Except.error (decodeOpreq_error hd).1)

/-- Settles O6: the word is rejected for its operation code, which finishes with ILLEGAL. -/
theorem stepRunsUnassignedWord : Obligations.StepRunsUnassignedWord := by
  intro s w hb hopc hi
  simp only [step_runs_request hb hi, State.runRequest, decode_unassigned hopc]
  rfl

end Sys2Proof.Machine
end

section
/-! The encoding (R70 to R75, R78, R80, R85): a row of the OPC map, put together as a word, and a row of the wire patterns
decode to their instruction, because no two rows share a code or a byte sequence; and every instruction is
encoded as a row. -/

namespace Sys2Proof

open Sys2Proof.Machine

/-! ### Rows decode -/

/-- With no key listed twice, every pair listed is what its key finds. -/
theorem lookup_eq_some_of_mem {α β : Type} [BEq α] [LawfulBEq α] {l : List (α × β)} {a : α} {b : β}
    (hn : (l.map Prod.fst).Nodup) (h : (a, b) ∈ l) : l.lookup a = some b := by
  obtain ⟨l₁, l₂, rfl⟩ := List.append_of_mem h
  refine List.lookup_eq_some_iff.2 ⟨l₁, l₂, rfl, fun p hp => bne_iff_ne.2 ?_⟩
  rw [List.map_append, List.map_cons] at hn
  obtain ⟨_, _, hne⟩ := List.nodup_append.1 hn
  exact (hne p.1 (List.mem_map_of_mem hp) a (List.mem_cons_self ..)).symm

/-- R72: the word put together from a row of the OPC map decodes to the row's operation. -/
theorem decode_requestWord {c b : Byte} {v : Half} {i : Instr} (h : (c, i) ∈ opcodeRows b v) :
    decode (.opreq (requestWord v b c)) = .ok i := by
  have hl := lookup_eq_some_of_mem (opcodeRows_distinct b v) h
  simp only [decode, decodeOpreq, opcOf_requestWord, imm8Of_requestWord, imm16Of_requestWord, hl]

/-- R75, R78, R80: a wire pattern decodes to its row. -/
theorem decode_frameRow {bytes : List Byte} {i : Instr} (h : (bytes, i) ∈ frameRows) : decode (.frame bytes) = .ok i := by
  simp only [decode, decodeFrame, lookup_eq_some_of_mem frameRows_distinct h]

/-! ### What is encoded is a row -/

/-- R71, R72: a row of the OPC map is encoded as its code and its operands, with zero in the fields it does not use. -/
theorem encode_of_opcodeRow {c b : Byte} {v : Half} {i : Instr} (h : (c, i) ∈ opcodeRows b v) :
    encode i = .opreq (requestWord (if c ∈ [(0x0A : Byte), 0x31] then v else 0)
      (if c ∈ [(0x02 : Byte), 0x09, 0x10, 0x11] then b else 0) c) := by
  unfold opcodeRows at h
  fin_cases h <;> rfl

/-- Every instruction is encoded as the word of a row of the OPC map, or as a row of the wire patterns. -/
theorem encode_cases (i : Instr) :
    (∃ v b c, encode i = .opreq (requestWord v b c) ∧ (c, i) ∈ opcodeRows b v) ∨
    ∃ bytes, encode i = .frame bytes ∧ (bytes, i) ∈ frameRows := by
  cases i
  case compl b | put8 b | sendcmd b | sendbyte b => exact .inl ⟨0, b, _, rfl, by simp [opcodeRows]⟩
  case put16be v | readraw v => exact .inl ⟨v, 0, _, rfl, by simp [opcodeRows]⟩
  case nop | ckxor | clrbuf | put32be | sendblk | sendframe | sendaddr | waitack | waitacktol | handshake | readresp =>
    exact .inl ⟨0, 0, _, rfl, by decide⟩
  all_goals exact .inr ⟨_, rfl, by decide⟩

/-- Settles O1: what is encoded is a row, and rows decode. -/
theorem decodeInvertsEncode : Obligations.DecodeInvertsEncode := by
  intro i
  rcases encode_cases i with ⟨v, b, c, he, hrow⟩ | ⟨bytes, he, hrow⟩ <;> rw [he]
  · exact decode_requestWord hrow
  · exact decode_frameRow hrow

/-- Settles O2: a word that decodes is a row of the OPC map with the word's own fields. -/
theorem decodedWordKeepsItsOperands : Obligations.DecodedWordKeepsItsOperands := by
  intro w i h
  have he := encode_of_opcodeRow (decodeOpreq_ok h)
  simp only [encodeOpreq, he]
  exact ⟨opcOf_requestWord _ _ _, imm8Of_requestWord _ _ _, imm16Of_requestWord _ _ _⟩

/-- Settles O4: each word is put together from the fields of a row, each frame is a row. -/
theorem writtenOutWordsDecode : Obligations.WrittenOutWordsDecode :=
  ⟨decode_requestWord (v := 0xFFFF) (b := 0x44) (c := 0x10) (by decide),
    decode_requestWord (v := 0x0002) (b := 0x00) (c := 0x0A) (by decide),
    decode_requestWord (v := 0x0100) (b := 0x00) (c := 0x31) (by decide),
    decode_requestWord (v := 0x0000) (b := 0x00) (c := 0x01) (by decide),
    decode_requestWord (v := 0x0000) (b := 0xDE) (c := 0x09) (by decide),
    decode_requestWord (v := 0x0000) (b := 0x00) (c := 0x22) (by decide),
    decode_frameRow (by decide), decode_frameRow (by decide), decode_frameRow (by decide)⟩

end Sys2Proof
end

section
/-! What an unassigned operation code does (R73), what an `expect` does (R85), and that every wire pattern runs as the
operation that has it on the wire (R75, R78, R80, R84; log 8). -/

namespace Sys2Proof.Machine

/-! ### Unassigned operation codes -/

/-- R72, R73: a code in one of the ranges of R73 is none of R72's. -/
theorem unassigned_notMem {c : Byte}
    (h : (0x03 ≤ c.toNat ∧ c.toNat ≤ 0x07) ∨ (0x0C ≤ c.toNat ∧ c.toNat ≤ 0x0F) ∨ (0x12 ≤ c.toNat ∧ c.toNat ≤ 0x17) ∨
      (0x1B ≤ c.toNat ∧ c.toNat ≤ 0x1F) ∨ (0x23 ≤ c.toNat ∧ c.toNat ≤ 0x2F) ∨ 0x32 ≤ c.toNat) :
    c ∉ [(0x00 : Byte), 0x01, 0x02, 0x08, 0x09, 0x0A, 0x0B, 0x10, 0x11, 0x18, 0x19, 0x1A, 0x20, 0x21, 0x22, 0x30, 0x31] := by
  intro hc
  have hn := List.mem_map_of_mem (f := BitVec.toNat) hc
  simp only [List.map_cons, List.map_nil, List.mem_cons, List.not_mem_nil, or_false, BitVec.reduceToNat] at hn
  omega

/-- R23, R70: an OPREQ write while IDLE issues its word. -/
theorem step_write_opreq {s : State} {w : Word} {rest : List Input} (hp : s.phase = .idle)
    (hi : s.inputs = .write 0x00 32 w :: rest) : step s = .next ({ s with inputs := rest }.accept (.opreq w)) :=
  step_write_idle hp hi (tg := .opreq) rfl

/-- Settles O3: the write issues the word, and the wait runs it to ILLEGAL. -/
theorem unassignedOpcodeFinishesIllegal : Obligations.UnassignedOpcodeFinishesIllegal := by
  intro s w rest hopc hp hi
  refine ⟨_, step_write_opreq hp hi, ?_⟩
  rw [stepRunsUnassignedWord _ w rfl (unassigned_notMem hopc) (.inr (.inl ⟨rest, rfl⟩))]
  simp [State.accept, carrierWord, hp]

/-! ### The host's expect -/

/-- R85: an `expect` while IDLE is taken off the inputs and compares the last result. -/
theorem step_expect_idle {s : State} {q : Res} {rest : List Input} (hp : s.phase = .idle)
    (hi : s.inputs = .expect q :: rest) : step s = .next ({ s with inputs := rest }.expectResult q) := by
  simp only [step, State.move, State.mover, hp, hi, State.input]

/-- Settles O9: a failed `expect` drops the inputs up to a reset, and none is to come. -/
theorem expectAbortsOnOtherResult : Obligations.ExpectAbortsOnOtherResult := by
  intro s q rest hp hi
  rw [step_expect_idle hp hi]
  refine ⟨fun h => by rw [State.expectResult, if_pos h], fun h hr => ?_⟩
  have hd : rest.dropWhile (fun i => decide (i ≠ .reset)) = [] :=
    List.dropWhile_eq_nil_iff.2 fun i hmem => decide_eq_true fun he => hr (he ▸ hmem)
  rw [State.expectResult, if_neg h, hd]

/-! ### Wire patterns run as their operations -/

/-- R75, R110 (log 8): every row that sends a command frame runs as SENDCMD of its command byte. -/
theorem exec_of_commandOf {i : Instr} {c : Byte} (h : commandOf i = some c) (s : State) :
    exec i s = exec (.sendcmd c) s := by
  cases i <;> cases h <;> rfl

/-- R110: SENDCMD sends the frame, CMPL is its second byte, and one acknowledgment is read under TMO. -/
theorem exec_sendcmd (s : State) (c : Byte) : ∃ a,
    s.Reads [{ asked := 1, timeout := s.tmo, after := s.txlog.length + 2, answer := a }] ∧
    exec (.sendcmd c) s =
      .next (State.afterAck { s with cmpl := cpl c, txlog := s.txlog ++ [c, cpl c] } s.tmo a) := by
  have hr := State.reads_one ({ s with cmpl := cpl c }.transmit (commandFrame c)) 1 s.tmo (s.txlog.length + 2)
  exact ⟨_, State.reads_congr rfl hr, congrArg Host.Outcome.next (State.ackDetect_eq _ s.tmo)⟩

/-- Settles O34: each frame is a row, a command byte and its complement, and its row runs as SENDCMD. -/
theorem commandFramesRunAsSendcmd : Obligations.CommandFramesRunAsSendcmd := by
  intro i c k h
  obtain ⟨hrow, hc, rfl⟩ : ([c, k], i) ∈ frameRows ∧ commandOf i = some c ∧ k = cpl c := by
    fin_cases h <;> decide
  refine ⟨decode_frameRow hrow, fun s => ?_⟩
  rw [exec_of_commandOf hc s]
  exact ⟨rfl, exec_sendcmd s c⟩

/-- R78, R150 (log 8): a control byte is the answer to one acknowledgment read, which it classifies. -/
theorem State.takeControl_eq (s : State) (b : Byte) :
    s.takeControl b = { s with
      rxlog := s.rxlog ++ [⟨1, s.tmo, s.txlog.length, [b]⟩], phase := .idle, res := ackRes [b], raw := b } := by
  simp [State.takeControl, State.ackDetect_eq, State.afterAck, State.answer, State.peerSends]

/-- R153: a handshake sends one to five INIT bytes, ATT is their number, and it ends with an ACK in RAW, or after five with
HSFAIL and no ACK. -/
theorem State.performHandshake_sends (s : State) : ∃ n, 1 ≤ n ∧ n ≤ 5 ∧
    s.performHandshake.txlog = s.txlog ++ List.replicate n 0x7F ∧ s.performHandshake.att = BitVec.ofNat 4 n ∧
    (s.performHandshake.res = .ok ∧ s.performHandshake.raw = 0x79 ∨
      n = 5 ∧ s.performHandshake.res = .hsfail ∧ s.performHandshake.raw ≠ 0x79) := by
  obtain ⟨ws, _, _, h1, h5, _, _, w, _, ⟨_, e⟩ | ⟨_, hw, e⟩⟩ := s.handshakeAttempts_cases 5 0x00 le_rfl (by omega)
  all_goals rw [State.performHandshake, Config.params_hsAttempts, e]
  · exact ⟨ws.length, h1, h5, rfl, by simp, .inl ⟨rfl, rfl⟩⟩
  · refine ⟨5, by omega, le_rfl, rfl, rfl, .inr ⟨rfl, rfl, ?_⟩⟩
    intro hb
    rcases Option.getD_eq_iff.1 hb with h | ⟨_, h⟩
    · exact hw h
    · exact absurd h (by decide)

/-- Settles O35: INIT runs HANDSHAKE's own meaning; ACK and NACK are each the answer of one read. -/
theorem controlBytesRun : Obligations.ControlBytesRun := by
  refine ⟨decode_frameRow (by decide), decode_frameRow (by decide), decode_frameRow (by decide), fun s => ?_, fun s => ?_⟩
  · obtain ⟨n, h⟩ := s.performHandshake_sends
    exact ⟨rfl, _, n, rfl, h⟩
  · exact ⟨congrArg Host.Outcome.next (s.takeControl_eq 0x79), congrArg Host.Outcome.next (s.takeControl_eq 0x1F)⟩

/-- R80, R97 (log 8): every sentinel row sends its sentinel's frame. -/
theorem exec_of_sentinelOf {i : Instr} {v : Half} (h : sentinelOf i = some v) (s : State) :
    exec i s = .next (s.sendSentinel v) := by
  cases i <;> cases h <;> rfl

/-- Settles O36: each frame is a row, a sentinel big-endian and its XOR, and its row sends the sentinel. -/
theorem sentinelFramesRunAsSendframe : Obligations.SentinelFramesRunAsSendframe := by
  intro i h l x hmem
  obtain ⟨v, hrow, hi, hv, rfl⟩ :
      ∃ v, ([h, l, x], i) ∈ frameRows ∧ sentinelOf i = some v ∧ be16 v = [h, l] ∧ x = xorfold [h, l] := by
    fin_cases hmem <;> exact ⟨_, by decide, rfl, by decide, by decide⟩
  refine ⟨decode_frameRow hrow, fun s => ⟨_, exec_of_sentinelOf hi s, ?_, ?_⟩⟩
  all_goals rw [State.sendSentinel_eq, hv]
  · exact stored_writeList s.mem 0x20000 [h, l]
  · rw [List.append_assoc]
    rfl

end Sys2Proof.Machine
end

section
/-! The checksum generator (R72, R100 to R104): a written word issues its row of the OPC map, the fold is a sum in the
commutative group of the bytes under XOR, and CKXOR goes through what reading the payload may give. -/

namespace Sys2Proof.Machine

/-! ### A written word issues its row -/

/-- R72: a word that has the code and the operands of a row of the OPC map decodes to it. -/
theorem decode_of_opcodeRow {w : Word} {i : Instr} (h : (opcOf w, i) ∈ opcodeRows (imm8Of w) (imm16Of w)) :
    decode (.opreq w) = .ok i := by
  simp only [decode, decodeOpreq, lookup_eq_some_of_mem (opcodeRows_distinct _ _) h]

/-- R70, R72: a row of the OPC map, whatever its operands, is issued by every word of its code. -/
theorem issuedBy_of_opcodeRow {opc : Byte} {i : Byte → Half → Instr} (hrow : ∀ b v, (opc, i b v) ∈ opcodeRows b v) :
    IssuedBy opc i := by
  rintro w rfl
  exact ⟨decode_of_opcodeRow (hrow _ _), fun s rest hp hi => step_write_opreq hp hi⟩

/-! ### The fold -/

/-- R100: the fold of nothing. -/
@[simp] theorem xorfold_nil : xorfold [] = 0x00 := rfl

/-- R104 (d): the fold takes concatenation to XOR. -/
@[simp] theorem xorfold_append (a b : List Byte) : xorfold (a ++ b) = xorfold a ^^^ xorfold b := by
  calc xorfold (a ++ b)
    _ = b.foldl (fun x y => x ^^^ y) (xorfold a) := List.foldl_append
    _ = b.foldl (fun x y => x ^^^ y) (xorfold a ^^^ 0x00) := congrArg (b.foldl _) BitVec.xor_zero.symm
    _ = xorfold a ^^^ xorfold b := List.foldl_assoc

/-- R100: the fold of one byte. -/
@[simp] theorem xorfold_singleton (b : Byte) : xorfold [b] = b := BitVec.zero_xor

/-- R104 (e): XOR is commutative and associative, so the order does not matter. -/
theorem xorfold_perm {a b : List Byte} (h : a.Perm b) : xorfold a = xorfold b := h.foldl_eq 0x00

/-- R104 (b): a block with its trailer folds to zero. -/
@[simp] theorem xorfold_dataBlock (p : List Byte) : xorfold (dataBlock p) = 0x00 := by
  rw [dataBlock, xorfold_append, xorfold_singleton]
  exact BitVec.xor_self

/-! ### The complement -/

/-- R101: the complement is bitwise NOT. -/
theorem cpl_eq_not (b : Byte) : cpl b = ~~~b := BitVec.allOnes_xor

/-- R104 (c): the complement is its own inverse. -/
@[simp] theorem cpl_cpl (b : Byte) : cpl (cpl b) = b := by rw [cpl_eq_not, cpl_eq_not, BitVec.not_not]

/-- R101: the complement in arithmetic. -/
theorem cpl_toNat (b : Byte) : (cpl b).toNat = 255 - b.toNat :=
  (congrArg BitVec.toNat (cpl_eq_not b)).trans BitVec.toNat_not

/-- R104 (f): a byte and its complement XOR to 0xFF. -/
@[simp] theorem cpl_xor_self (b : Byte) : cpl b ^^^ b = 0xFF := by
  rw [cpl, BitVec.xor_assoc, BitVec.xor_self, BitVec.xor_zero]

/-- Settles O10: each law is one of the fold's or of the complement's. -/
theorem checksumLaws : Obligations.ChecksumLaws :=
  ⟨fun b => xorfold_perm b.reverse_perm.symm, xorfold_dataBlock, cpl_cpl, xorfold_append, fun _ _ h => xorfold_perm h,
    cpl_xor_self⟩

/-- Settles O11: the recursion is the fold of a concatenation with one byte. -/
theorem foldAndComplementDefined : Obligations.FoldAndComplementDefined :=
  ⟨xorfold_nil, fun p b => by rw [xorfold_append, xorfold_singleton], fun b => ⟨rfl, cpl_eq_not b, cpl_toNat b⟩⟩

/-! ### CKXOR and COMPL -/

/-- Settles O12, by the payload held, its length past the bound, and an unwritten cell. -/
theorem ckxorFoldsPayload : Obligations.CkxorFoldsPayload := by
  refine ⟨issuedBy_of_opcodeRow fun b v => by simp [opcodeRows], fun s p hle hp => ?_, fun s h => ?_, fun s hle hu => ?_⟩
  · exact congrArg Host.Outcome.next (State.withPayload_held _ (Nat.zero_le _) hle hp)
  · exact congrArg Host.Outcome.next (State.withPayload_elen _ (.inr h))
  · obtain ⟨p, hp, e⟩ := State.withPayload_unwritten _ (Nat.zero_le _) hle hu
    exact ⟨p, hp, congrArg Host.Outcome.next e⟩

/-- Settles O13: COMPL's row, and its meaning for every byte. -/
theorem complWritesComplement : Obligations.ComplWritesComplement :=
  ⟨issuedBy_of_opcodeRow fun b v => by simp [opcodeRows], fun _ _ => rfl⟩

end Sys2Proof.Machine
end

section
/-! The command framer (R110 to R112): each operation is issued by its row of the OPC map, and its meaning is compared over
the whole state. -/

namespace Sys2Proof.Machine

/-- Settles O14: SENDCMD's row; its frame and its one read under TMO are `exec_sendcmd`. -/
theorem sendcmdFramesAndAwaits : Obligations.SendcmdFramesAndAwaits :=
  ⟨issuedBy_of_opcodeRow fun b v => by simp [opcodeRows], exec_sendcmd⟩

/-- R111: SENDBYTE transmits its byte and finishes. -/
theorem exec_sendbyte (s : State) (b : Byte) : exec (.sendbyte b) s = .next ((s.transmit [b]).finish .ok 0x00) := rfl

/-- Settles O15: SENDBYTE's row; its meaning transmits one byte and finishes, with no read between. -/
theorem sendbyteSendsOneByte : Obligations.SendbyteSendsOneByte :=
  ⟨issuedBy_of_opcodeRow fun b v => by simp [opcodeRows], exec_sendbyte⟩

/-- R112: NOP finishes. -/
theorem exec_nop (s : State) : exec .nop s = .next (s.finish .ok 0x00) := rfl

/-- Settles O16: NOP's row; its meaning is the finish alone. -/
theorem nopOnlyFinishes : Obligations.NopOnlyFinishes :=
  ⟨issuedBy_of_opcodeRow fun b v => by simp [opcodeRows], exec_nop⟩

end Sys2Proof.Machine
end

section
/-! The DataBlock framer (R120 to R131): the serializers in arithmetic, the three appends through what appending a run of
bytes does, and the three senders through what reading the payload and sending a block do. -/

namespace Sys2Proof.Machine

/-! ### The serializers -/

/-- R124: BE16 in arithmetic, the high byte and the low one. -/
theorem be16_eq (v : Half) : be16 v = [BitVec.ofNat 8 (v.toNat / 0x100), BitVec.ofNat 8 v.toNat] := by
  simp [be16, BitVec.extractLsb', Nat.shiftRight_eq_div_pow]

/-- R124: BE32 in arithmetic, the most significant byte first. -/
theorem be32_eq (a : Address) : be32 a = [BitVec.ofNat 8 (a.toNat / 0x1000000), BitVec.ofNat 8 (a.toNat / 0x10000),
    BitVec.ofNat 8 (a.toNat / 0x100), BitVec.ofNat 8 a.toNat] := by
  simp [be32, BitVec.extractLsb', Nat.shiftRight_eq_div_pow]

/-- R124: two bytes hold a half word, in base 256. -/
theorem be16_value (v : Half) : ∃ h l, be16 v = [h, l] ∧ v.toNat = h.toNat * 0x100 + l.toNat := by
  refine ⟨_, _, be16_eq v, ?_⟩
  simp only [BitVec.toNat_ofNat]
  omega

/-- R124: four bytes hold a word, in base 256. -/
theorem be32_value (a : Word) : ∃ b3 b2 b1 b0, be32 a = [b3, b2, b1, b0] ∧
    a.toNat = ((b3.toNat * 0x100 + b2.toNat) * 0x100 + b1.toNat) * 0x100 + b0.toNat := by
  refine ⟨_, _, _, _, be32_eq a, ?_⟩
  simp only [BitVec.toNat_ofNat]
  omega

/-- Settles O21: the value of the bytes of each serializer. -/
theorem serializersAreBigEndian : Obligations.SerializersAreBigEndian := ⟨be16_value, be32_value⟩

/-! ### Payload assembly -/

/-- R121: CLRBUF empties the payload. -/
theorem exec_clrbuf (s : State) : exec .clrbuf s = .next s.clearPayload := rfl

/-- Settles O17: CLRBUF's row; its meaning sets PLEN and finishes. -/
theorem clrbufEmptiesPayload : Obligations.ClrbufEmptiesPayload :=
  ⟨issuedBy_of_opcodeRow fun b v => by simp [opcodeRows], exec_clrbuf⟩

/-- R122: PUT8 appends its byte. -/
theorem exec_put8 (s : State) (b : Byte) : exec (.put8 b) s = .next (s.appendPayload [b]) := rfl

/-- R123: PUT16BE appends its half word, big-endian. -/
theorem exec_put16be (s : State) (v : Half) : exec (.put16be v) s = .next (s.appendPayload (be16 v)) := rfl

/-- R125: PUT32BE appends ADDR, big-endian. -/
theorem exec_put32be (s : State) : exec .put32be s = .next (s.appendPayload (be32 s.addr)) := rfl

section Append
variable {s : State} {i : Instr} {bs : List Byte} (hi : exec i s = .next (s.appendPayload bs))
include hi

/-- R122, R123, R125: an append within P_MAX stores its bytes from PBUF[PLEN] on and lengthens the payload by them. -/
theorem exec_append_ok (h : s.plen.toNat + bs.length ≤ 131070) : ∃ t, exec i s = .next t ∧
    Stored s.mem t.mem (0x20000 + s.plen.toNat) bs ∧
    t = { s with
      mem := t.mem, plen := s.plen + BitVec.ofNat 17 bs.length, phase := .idle, res := .ok, raw := 0x00 } := by
  rw [hi, State.appendPayload_ok h]
  exact ⟨_, rfl, stored_writeList s.mem _ bs, rfl⟩

/-- R122, R123, R125: an append past P_MAX is refused whole. -/
theorem exec_append_elen (h : 131070 < s.plen.toNat + bs.length) :
    exec i s = .next { s with phase := .idle, res := .elen, raw := 0x00 } := by
  rw [hi, State.appendPayload_elen h, State.finish]

end Append

/-- Settles O18: PUT8 is an append of one byte. -/
theorem put8AppendsByte : Obligations.Put8AppendsByte :=
  ⟨issuedBy_of_opcodeRow fun b v => by simp [opcodeRows], fun s b => exec_append_ok (exec_put8 s b),
    fun s b => exec_append_elen (exec_put8 s b)⟩

/-- Settles O19: PUT16BE is an append of the two bytes of `be16_eq`. -/
theorem put16beAppendsBigEndian : Obligations.Put16beAppendsBigEndian := by
  refine ⟨issuedBy_of_opcodeRow fun b v => by simp [opcodeRows], fun s v h => ?_, fun s v => ?_⟩
  · rw [← be16_eq]
    exact exec_append_ok (exec_put16be s v) h
  · exact exec_append_elen (exec_put16be s v)

/-- Settles O20: PUT32BE is an append of the four bytes of `be32_eq`. -/
theorem put32beAppendsAddress : Obligations.Put32beAppendsAddress := by
  refine ⟨issuedBy_of_opcodeRow fun b v => by simp [opcodeRows], fun s h => ?_, fun s => ?_⟩
  · rw [← be32_eq]
    exact exec_append_ok (exec_put32be s) h
  · exact exec_append_elen (exec_put32be s)

/-! ### DataBlock transmission -/

/-- R127: SENDBLK sends the payload as a block and awaits its acknowledgment. -/
theorem exec_sendblk (s : State) :
    exec .sendblk s = .next (s.withPayload 1 fun t p => (t.sendBlock p).ackDetect t.tmo) := rfl

/-- R129: SENDFRAME sends the payload as a block and finishes. -/
theorem exec_sendframe (s : State) :
    exec .sendframe s = .next (s.withPayload 1 fun t p => (t.sendBlock p).finish .ok 0x00) := rfl

/-- R131: SENDADDR sends ADDR as a block and awaits its acknowledgment. -/
theorem exec_sendaddr (s : State) : exec .sendaddr s = .next ((s.sendBlock (be32 s.addr)).ackDetect s.tmo) := rfl

/-- R151: WAITACK awaits an acknowledgment under TMO. -/
theorem exec_waitack (s : State) : exec .waitack s = .next (s.ackDetect s.tmo) := rfl

/-- R202: a payload with an unwritten cell is not empty. -/
theorem State.HasUnwritten.plen_pos {s : State} (h : s.HasUnwritten) : 1 ≤ s.plen.toNat := by
  obtain ⟨i, hi, _⟩ := h
  omega

/-- R127, R131: the acknowledgment of a block is one read under TMO, made when the payload and its trailer are out. -/
theorem State.sendBlock_ackDetect (s : State) (p : List Byte) : ∃ a,
    s.Reads [{ asked := 1, timeout := s.tmo, after := s.txlog.length + p.length + 1, answer := a }] ∧
    (s.sendBlock p).ackDetect s.tmo =
      State.afterAck { s with cksum := xorfold p, txlog := s.txlog ++ p ++ [xorfold p] } s.tmo a := by
  have hr := (s.sendBlock p).reads_one 1 s.tmo (s.txlog.length + p.length + 1)
  exact ⟨_, State.reads_congr rfl hr, by rw [State.ackDetect_eq, State.sendBlock_eq]⟩

/-- Settles O22, by the payload held, its length outside the bounds, and an unwritten cell. -/
theorem sendblkSendsBlockAndAwaits : Obligations.SendblkSendsBlockAndAwaits := by
  refine ⟨issuedBy_of_opcodeRow fun b v => by simp [opcodeRows], fun s p h1 h2 hp => ?_, fun s h => ?_, fun s h2 hu => ?_⟩
  all_goals rw [exec_sendblk]
  · rw [State.withPayload_held _ h1 h2 hp]
    obtain ⟨a, ha, e⟩ := s.sendBlock_ackDetect p
    exact ⟨a, ha, congrArg Host.Outcome.next e⟩
  · rw [State.withPayload_elen _ h, State.finish]
  · obtain ⟨p, hp, hk⟩ := State.withPayload_unwritten (fun t p => (t.sendBlock p).ackDetect t.tmo) hu.plen_pos h2 hu
    obtain ⟨a, ha, e⟩ := s.marked.sendBlock_ackDetect p
    exact ⟨p, a, hp, State.reads_congr rfl ha, congrArg Host.Outcome.next (hk.trans e)⟩

/-- Settles O23, by the payload held, its length outside the bounds, and an unwritten cell. -/
theorem sendframeSendsBlockOnly : Obligations.SendframeSendsBlockOnly := by
  refine ⟨issuedBy_of_opcodeRow fun b v => by simp [opcodeRows], fun s p h1 h2 hp => ?_, fun s h => ?_, fun s h2 hu => ?_⟩
  all_goals rw [exec_sendframe]
  · rw [State.withPayload_held _ h1 h2 hp, State.sendBlock_eq, State.finish]
  · rw [State.withPayload_elen _ h, State.finish]
  · obtain ⟨p, hp, hk⟩ :=
      State.withPayload_unwritten (fun t p => (t.sendBlock p).finish .ok 0x00) hu.plen_pos h2 hu
    refine ⟨p, hp, ?_⟩
    rw [hk, State.sendBlock_eq, State.finish, State.mark_txlog]

/-- Settles O24: the block is ADDR's four bytes, and their fold is their XOR. -/
theorem sendaddrSendsAddressFrame : Obligations.SendaddrSendsAddressFrame := by
  refine ⟨issuedBy_of_opcodeRow fun b v => by simp [opcodeRows], fun s => ?_⟩
  obtain ⟨b3, b2, b1, b0, hb, hv⟩ := be32_value s.addr
  obtain ⟨a, ha, e⟩ := s.sendBlock_ackDetect [b3, b2, b1, b0]
  have hx : xorfold [b3, b2, b1, b0] = b3 ^^^ b2 ^^^ b1 ^^^ b0 := by simp [xorfold]
  rw [Nat.add_assoc] at ha
  rw [hx, List.append_assoc] at e
  refine ⟨b3, b2, b1, b0, a, hv, ha, ?_⟩
  rw [exec_sendaddr, hb, e]
  rfl

/-! ### Laws of the senders -/

/-- R150: an acknowledgment read sends nothing. -/
@[simp] theorem State.ackDetect_txlog (s : State) (t : Word) : (s.ackDetect t).txlog = s.txlog := by
  rw [State.ackDetect_eq, State.afterAck]

/-- R128: an operation that sends its payload as a block and does not end with ELEN has sent at least one byte of it. -/
theorem State.withPayload_sends {s : State} {k : State → List Byte → State}
    (hk : ∀ t p, (k t p).txlog = t.txlog ++ dataBlock p) (hres : (s.withPayload 1 k).res ≠ .elen) :
    ∃ p, 1 ≤ p.length ∧ (s.withPayload 1 k).txlog = s.txlog ++ dataBlock p := by
  rcases s.withPayload_cases 1 k with ⟨_, e⟩ | ⟨h1, _, p, u, hp, _, e⟩
  · exact absurd (congrArg State.res e) hres
  · exact ⟨p, hp.1 ▸ h1, (congrArg State.txlog e).trans (hk _ p)⟩

/-- R128: what a sender that did not end with ELEN transmitted is the DataBlock of a payload of at least one byte. -/
theorem exec_sends_dataBlock {s t : State} {i : Instr} (hi : i = .sendblk ∨ i = .sendframe ∨ i = .sendaddr)
    (h : exec i s = .next t) (hres : t.res ≠ .elen) : ∃ p, 1 ≤ p.length ∧ t.txlog = s.txlog ++ dataBlock p := by
  rcases hi with rfl | rfl | rfl
  · rw [exec_sendblk] at h
    cases h
    exact State.withPayload_sends (fun t p => State.ackDetect_txlog _ _) hres
  · rw [exec_sendframe] at h
    cases h
    exact State.withPayload_sends (fun _ _ => rfl) hres
  · rw [exec_sendaddr] at h
    cases h
    exact ⟨be32 s.addr, by simp [be32], State.ackDetect_txlog _ _⟩

/-- Settles O25: a DataBlock folds to zero. -/
theorem transmittedBlockFoldsToZero : Obligations.TransmittedBlockFoldsToZero := by
  intro s t i hi h hres
  obtain ⟨p, hp, htx⟩ := exec_sends_dataBlock hi h hres
  exact ⟨dataBlock p, htx, by simp [dataBlock]; omega, xorfold_dataBlock p⟩

/-- R150: the acknowledgment read does not depend on the result recorded before it. -/
@[simp] theorem State.ackDetect_finish (s : State) (r : Res) (b : Byte) (t : Word) :
    (s.finish r b).ackDetect t = s.ackDetect t := by
  rw [State.ackDetect_eq, State.ackDetect_eq]
  rfl

/-- R120, R203: within the bounds, what follows an operation over the payload may be done as a part of it. -/
theorem State.apply_withPayload {s : State} {lo : Nat} (k : State → List Byte → State) (g : State → State)
    (h1 : lo ≤ s.plen.toNat) (h2 : s.plen.toNat ≤ 131070) :
    g (s.withPayload lo k) = s.withPayload lo fun t p => g (k t p) := by
  have hb : ¬ (s.plen.toNat < lo ∨ 131070 < s.plen.toNat) := by omega
  simp only [State.withPayload, Config.params_pMax, hb, if_false]

/-- R126: SENDFRAME ends with OK only within the bounds. -/
theorem sendframe_bounds_of_ok {s u : State} (h : exec .sendframe s = .next u) (hok : u.res = .ok) :
    1 ≤ s.plen.toNat ∧ s.plen.toNat ≤ 131070 := by
  by_contra hb
  rw [exec_sendframe, State.withPayload_elen _ (by omega)] at h
  cases h
  cases hok

/-- Settles O26: SENDBLK is SENDFRAME with the acknowledgment read put after the block. -/
theorem sendframeThenWaitackIsSendblk : Obligations.SendframeThenWaitackIsSendblk := by
  intro s u h hok
  obtain ⟨h1, h2⟩ := sendframe_bounds_of_ok h hok
  rw [exec_sendframe] at h
  cases h
  rw [exec_sendblk, exec_waitack, State.apply_withPayload _ (fun u => u.ackDetect u.tmo) h1 h2]
  simp only [State.ackDetect_finish]
  rfl

end Sys2Proof.Machine
end

section
/-! Acknowledgment detection (R150 to R155): WAITACK is one acknowledgment read, WAITACKTOL and HANDSHAKE are their loops
run over the whole count, and an answer that is written down is the window a handshake reads. -/

namespace Sys2Proof.Machine

/-- Settles O27: WAITACK's row; an acknowledgment read is one read that the PEER may answer, classified. -/
theorem waitackClassifiesOneByte : Obligations.WaitackClassifiesOneByte := by
  refine ⟨issuedBy_of_opcodeRow fun b v => by simp [opcodeRows], fun s => ⟨s.answer 1 s.tmo, s.ackDetect_reads s.tmo, ?_⟩⟩
  rw [exec_waitack, State.ackDetect_eq]

/-- R152: WAITACKTOL is the tolerant loop with eight reads to go. -/
theorem exec_waitacktol (s : State) : exec .waitacktol s = .next (s.tolerantReads 8) := rfl

/-- Settles O28: WAITACKTOL's row; with all eight reads to go, ATO is the number of reads that timed out. -/
theorem waitacktolAbsorbsTimeouts : Obligations.WaitacktolAbsorbsTimeouts := by
  refine ⟨issuedBy_of_opcodeRow fun b v => by simp [opcodeRows], fun s => ?_⟩
  obtain ⟨rs, hr, ⟨n, b, hn, hrs, e⟩ | ⟨hrs, e⟩⟩ := s.tolerantReads_cases 8 le_rfl
  · rw [Nat.sub_self, Nat.zero_add] at e
    exact ⟨rs, _, exec_waitacktol s, hr, .inl ⟨n, b, hn, hrs, e⟩⟩
  · exact ⟨rs, _, exec_waitacktol s, hr, .inr ⟨hrs, e⟩⟩

/-- R153: HANDSHAKE is the handshake loop with five attempts to go and nothing to report. -/
theorem exec_handshake (s : State) : exec .handshake s = .next (s.handshakeAttempts 5 0x00) := rfl

/-- Settles O29: HANDSHAKE's row; with all five attempts to go, ATT is the number of windows read. -/
theorem handshakeSynchronisesOnTail : Obligations.HandshakeSynchronisesOnTail := by
  refine ⟨issuedBy_of_opcodeRow fun b v => by simp [opcodeRows], fun s => ?_⟩
  obtain ⟨ws, rs, hr, h1, h5, hrs, hpre, w, hw, hcase⟩ := s.handshakeAttempts_cases 5 0x00 le_rfl (by omega)
  rw [Nat.sub_self, Nat.zero_add] at hcase
  exact ⟨ws, rs, _, exec_handshake s, hr, h1, h5, hrs, hpre, w, hw, hcase⟩

/-! ### Handshakes whose answers are written down -/

/-- R28: a read whose answer is written down, and no longer than what was asked, gets that answer. -/
theorem State.Reads.answer_eq {s : State} {rs : List RxRead} {j : Nat} {r : RxRead} {a : List Byte} (h : s.Reads rs)
    (hr : rs[j]? = some r) (ha : s.rxnext[j]? = some a) (hle : a.length ≤ r.asked) : r.answer = a := by
  rw [(h j r hr).2 a ha, List.take_of_length_le hle]

/-- R28, R153: a window of a handshake whose answer is written down is that answer. -/
theorem State.Reads.window_eq {s : State} {ws : List (List Byte)} {n j : Nat} {w a : List Byte}
    (h : s.Reads (ws.mapIdx fun i v => { asked := 1024, timeout := 1000, after := n + i + 1, answer := v }))
    (hw : ws[j]? = some w) (ha : s.rxnext[j]? = some a) (hle : a.length ≤ 1024) : w = a :=
  h.answer_eq (r := { asked := 1024, timeout := 1000, after := n + j + 1, answer := w }) (by simp [hw]) ha hle

/-- R155: a PEER whose first window ends in ACK is synchronised with in one attempt: no window but the last ends in ACK. -/
theorem exec_handshake_of_first_ack {s : State} {w : List Byte} {later : List (List Byte)} (hx : s.rxnext = w :: later)
    (hle : w.length ≤ 1024) (hack : w.getLast? = some 0x79) :
    ∃ t, exec .handshake s = .next t ∧ t.res = .ok ∧ t.att = 1 ∧ t.txlog = s.txlog ++ [0x7F] := by
  obtain ⟨ws, _, t, ht, hr, h1, _, rfl, hpre, v, hv, hcase⟩ := handshakeSynchronisesOnTail.2 s
  obtain ⟨u, us, rfl⟩ := List.exists_cons_of_length_pos h1
  obtain rfl : u = w := hr.window_eq (j := 0) rfl (by rw [hx]; rfl) hle
  cases us with
  | cons x xs => exact absurd hack (hpre u (by simp))
  | nil =>
    obtain rfl : u = v := by simpa using hv
    rcases hcase with ⟨_, rfl⟩ | ⟨_, hno, _⟩
    · exact ⟨_, ht, rfl, rfl, rfl⟩
    · exact absurd hack hno

/-- R155: a PEER none of whose five windows ends in ACK fails the handshake: its last window is one of the five. -/
theorem exec_handshake_of_no_ack {s : State} {as later : List (List Byte)} (hx : s.rxnext = as ++ later)
    (hlen : as.length = 5) (has : ∀ a ∈ as, a.length ≤ 1024 ∧ a.getLast? ≠ some 0x79) :
    ∃ t, exec .handshake s = .next t ∧ t.res = .hsfail ∧ t.att = 5 ∧
      t.txlog = s.txlog ++ [0x7F, 0x7F, 0x7F, 0x7F, 0x7F] := by
  obtain ⟨ws, _, t, ht, hr, h1, h5, rfl, _, w, hw, hcase⟩ := handshakeSynchronisesOnTail.2 s
  have hlt : ws.length - 1 < as.length := by omega
  obtain ⟨hle, hno⟩ := has as[ws.length - 1] (List.getElem_mem hlt)
  have hs : s.rxnext[ws.length - 1]? = some as[ws.length - 1] := by
    rw [hx, List.getElem?_append_left hlt, List.getElem?_eq_getElem hlt]
  have e : w = as[ws.length - 1] := hr.window_eq (List.getLast?_eq_getElem?.symm.trans hw) hs hle
  rcases hcase with ⟨hack, _⟩ | ⟨_, _, rfl⟩
  · exact absurd (e ▸ hack) hno
  · exact ⟨_, ht, rfl, rfl, rfl⟩

/-- Settles O30: the PEER whose first window ends in ACK, and the PEER none of whose five windows does. -/
theorem handshakeFirstWindowOrFailure : Obligations.HandshakeFirstWindowOrFailure :=
  ⟨fun _ _ _ hx hle hack => exec_handshake_of_first_ack hx hle hack,
    fun _ _ _ hx hlen hws => exec_handshake_of_no_ack hx hlen hws⟩

end Sys2Proof.Machine
end

section
/-! The response decoder (R170 to R172): READRESP's three endings are those of `State.readResponse_cases`, OK leaves only
the last of them, and READRAW is one read stored at RBUF[0]. -/

namespace Sys2Proof.Machine

/-- R170: READRESP reads a length-prefixed response. -/
theorem exec_readresp (s : State) : exec .readresp s = .next s.readResponse := rfl

/-- R172: READRAW reads as many bytes as its operand says. -/
theorem exec_readraw (s : State) (n : Half) : exec (.readraw n) s = .next (s.readRaw n.toNat) := rfl

/-- Settles O31: READRESP's row; each ending's run of writes from RBUF[0] on stores the payload. -/
theorem readrespDecodesResponse : Obligations.ReadrespDecodesResponse := by
  refine ⟨issuedBy_of_opcodeRow fun b v => by simp [opcodeRows], fun s => ?_⟩
  obtain ⟨rs, hr, hlog, hcase⟩ := s.readResponse_cases
  refine ⟨rs, _, hr, exec_readresp s, hlog, ?_⟩
  rcases hcase with hnone | ⟨len, p, hp, hrs, hm, e⟩ | ⟨len, p, a, hp, hrs, hm, e⟩
  · exact .inl hnone
  · exact .inr (.inl ⟨len, p, hp, hrs, hm ▸ stored_writeList s.mem 0x100 p, e⟩)
  · exact .inr (.inr ⟨len, p, a, hp, hrs, hm ▸ stored_writeList s.mem 0x100 p, e⟩)

/-- R150: an acknowledgment read with the result OK was answered. -/
theorem length_eq_one_of_ackRes_ok {a : List Byte} (hle : a.length ≤ 1) (hok : ackRes a = .ok) : a.length = 1 := by
  rcases nil_or_singleton hle with rfl | ⟨b, rfl⟩
  · cases hok
  · rfl

/-- A stored byte reads back. -/
theorem Stored.read_add {m m' : Memory} {off i : Nat} {bs : List Byte} (h : Stored m m' off bs) (hi : i < bs.length) :
    Memory.read m' (off + i) = bs[i]? := by
  rw [h (off + i), if_pos (by omega), Nat.add_sub_cancel_left]

/-- R33: RCOUNT holds the number of bytes of a response, at most 256. -/
theorem rcount_toNat {p : List Byte} (h : p.length ≤ 256) : (BitVec.ofNat 9 p.length).toNat = p.length := by
  rw [BitVec.toNat_ofNat]
  omega

/-- Settles O32: the two endings without an acknowledgment are TIMEOUT, so OK is an answered acknowledgment after a whole
payload. -/
theorem goodResponseIsInRbuf : Obligations.GoodResponseIsInRbuf := by
  intro s t h hok
  rw [exec_readresp] at h
  cases h
  obtain ⟨rs, hr, hlog, ⟨_, e⟩ | ⟨len, p, _, _, _, e⟩ | ⟨len, p, a, hp, rfl, hm, e⟩⟩ := s.readResponse_cases
  · exact absurd ((congrArg State.res e).symm.trans hok) nofun
  · exact absurd ((congrArg State.res e).symm.trans hok) nofun
  · have hrl : s.readResponse.rl = len := congrArg State.rl e
    have hres : s.readResponse.res = ackRes a := congrArg State.res e
    have hle : p.length ≤ 256 := hp ▸ byte_toNat_lt len
    have hcount : s.readResponse.rcount.toNat = p.length := by rw [congrArg State.rcount e, rcount_toNat hle]
    have ha : a.length = 1 := length_eq_one_of_ackRes_ok (hr 2 _ rfl).1 (hres.symm.trans hok)
    refine ⟨by rw [hcount, hrl, hp], _, _, _, hlog, hcount.symm, ha, fun i hi => ?_⟩
    rw [hm]
    exact (stored_writeList s.mem 0x100 p).read_add (hcount ▸ hi)

/-- Settles O33: READRAW's row; a legal count is one read under TMO, stored and counted, and any other ends with ELEN. -/
theorem readrawReceivesExactly : Obligations.ReadrawReceivesExactly := by
  refine ⟨issuedBy_of_opcodeRow fun b v => by simp [opcodeRows], fun s n h1 h2 => ?_, fun s n h => ?_⟩
  · rw [exec_readraw, State.readRaw_eq h1 h2]
    have hr := s.clearRinfo.reads_one n.toNat s.tmo s.txlog.length
    exact ⟨_, _, State.reads_congr rfl hr, rfl, stored_writeList s.mem 0x100 _, rfl⟩
  · rw [exec_readraw, State.readRaw_elen h, State.finish]

end Sys2Proof.Machine
end

section
/-! The results as the block's exceptions (R200 to R206, R248): which result an operation can have, what one that fails and
one that ends with ELEN leave, that OK means every read was answered, and what raises the fault mark. -/

namespace Sys2Proof.Machine

/-! ### Which results -/

/-- R150: an acknowledgment read has one of four results. -/
theorem ackRes_mem (a : List Byte) : ackRes a ∈ [.ok, .nack, .unexpected, .timeout] := by
  unfold ackRes
  split
  · simp
  · split_ifs <;> simp

/-- R150: a byte that arrived is no timeout. -/
theorem ackRes_byte_mem (b : Byte) : ackRes [b] ∈ [.ok, .nack, .unexpected] := by
  simp only [ackRes]
  split_ifs <;> simp

/-- R150, R203: no acknowledgment read ends with ELEN. -/
theorem ackRes_ne_elen (a : List Byte) : ackRes a ≠ .elen := fun h => by simpa [h] using ackRes_mem a

/-- R201, R203: the operations that can finish with ELEN list it. -/
theorem elen_mem_mayProduce {i : Instr} (h : mayElen i = true) : .elen ∈ mayProduce i := by
  cases i
  case ckxor | put8 | put16be | put32be | sendblk | sendframe | readraw => simp [mayProduce]
  all_goals cases h

/-- R201: every operation but the control byte NACK can end with OK. -/
theorem ok_mem_mayProduce {i : Instr} (h : i ≠ .nack) : .ok ∈ mayProduce i := by
  cases i
  case nack => exact absurd rfl h
  all_goals simp [mayProduce]

/-- R110, R201: what sends a command frame has the results of its acknowledgment. -/
theorem mayProduce_of_commandOf {i : Instr} {c : Byte} (h : commandOf i = some c) :
    mayProduce i = [.ok, .nack, .unexpected, .timeout] := by
  cases i <;> cases h <;> rfl

/-- R201: a completed operation has one of its results. -/
theorem effect_res_mem {s t : State} {i : Instr} (h : Effect s i t) : t.res ∈ mayProduce i := by
  cases h
  case elen h => exact elen_mem_mayProduce h
  case command a _ hc => exact mayProduce_of_commandOf hc ▸ ackRes_mem a
  case sendblk a _ => exact List.mem_append_left [.elen] (ackRes_mem a)
  case sendaddr a _ | waitack a _ | response a _ _ => exact ackRes_mem a
  case tolerated b _ => exact ackRes_byte_mem b
  case append bs _ hbs => exact ok_mem_mayProduce (by rintro rfl; cases hbs)
  case sentinel v hv => exact ok_mem_mayProduce (by rintro rfl; cases hv)
  case synchronised hi | unsynchronised hi => rcases hi with rfl | rfl <;> simp [mayProduce]
  case control hi => rcases hi with ⟨rfl, rfl⟩ | ⟨rfl, rfl⟩ <;> simp [mayProduce, ackRes]
  case readraw n p _ _ => by_cases hp : p.length < n.toNat <;> simp [mayProduce, hp]
  all_goals simp [mayProduce]

/-- Settles O55, along the effects of an operation. -/
theorem resultsPerOperation : Obligations.ResultsPerOperation := fun _ _ _ h => effect_res_mem (exec_effect h)

/-! ### ELEN -/

/-- R201, R203: only the case that does nothing else ends with ELEN. -/
theorem effect_elen {s t : State} {i : Instr} (h : Effect s i t) (he : t.res = .elen) : t = s.finish .elen 0x00 := by
  cases h
  case elen => rfl
  case command | sendblk | sendaddr | waitack | response => exact absurd he (ackRes_ne_elen _)
  case tolerated b _ | control b _ => exact absurd he (ackRes_ne_elen [b])
  case readraw => split_ifs at he
  all_goals cases he

/-- Settles O54: ELEN only finishes. -/
theorem elenHasNoOtherEffect : Obligations.ElenHasNoOtherEffect := fun _ _ _ h he => effect_elen (exec_effect h) he

/-! ### Failing operations -/

/-- R204: an operation that does not end with OK keeps PLEN and PBUF; it writes at most RBUF. -/
theorem effect_keeps_payload {s t : State} {i : Instr} (h : Effect s i t) (hf : t.res ≠ .ok) :
    t.plen = s.plen ∧ ∀ a, 0x20000 ≤ a → Memory.read t.mem a = Memory.read s.mem a := by
  cases h
  case clrbuf | append | sentinel => exact absurd rfl hf
  case shortResponse len p hp | response len p _ hp _ =>
    have := byte_toNat_lt len
    exact ⟨rfl, fun a ha => Memory.read_writeList_rbuf (by omega) ha⟩
  case readraw n p _ _ => exact ⟨rfl, fun a ha => Memory.read_writeList_rbuf (by omega) ha⟩
  all_goals exact ⟨rfl, fun _ _ => rfl⟩

/-- Settles O53: the payload is kept on failure, ADDR and TMO always, and both logs only grow. -/
theorem failingOperationKeepsOperands : Obligations.FailingOperationKeepsOperands := by
  intro i s t h hf
  have he := exec_effect h
  obtain ⟨hplen, hpbuf⟩ := effect_keeps_payload he hf
  obtain ⟨haddr, htmo, _⟩ := effect_keeps_host he
  obtain ⟨heard, hheard, _⟩ := effect_timeouts he
  exact ⟨hplen, haddr, htmo, hpbuf, effect_txlog he, heard, hheard⟩

/-! ### OK means every read was answered -/

/-- R206: outside the operations that absorb a timeout, OK leaves only reads answered in full. -/
theorem effect_reads_full {s t : State} {i : Instr} (h : Effect s i t) (hi : absorbsTimeouts i = false)
    (hok : t.res = .ok) : ∃ heard, t.rxlog = s.rxlog ++ heard ∧ ∀ r ∈ heard, r.answer.length = r.asked := by
  cases h
  case command ha _ | sendblk ha | sendaddr ha | waitack ha =>
    exact ⟨[_], rfl, by simp [length_eq_one_of_ackRes_ok ha hok]⟩
  case response hp ha => exact ⟨[_, _, _], rfl, by simp [hp, length_eq_one_of_ackRes_ok ha hok]⟩
  case control => exact ⟨[_], rfl, by simp⟩
  case readraw n p _ hp =>
    have hfull : ¬ p.length < n.toNat := fun hlt => by simp [hlt] at hok
    exact ⟨[_], rfl, by simpa using Nat.le_antisymm hp (Nat.le_of_not_lt hfull)⟩
  case tolerated | toleratedAll => cases hi
  case synchronised h => rcases h with rfl | rfl <;> cases hi
  case unsynchronised | noResponse | shortResponse => cases hok
  all_goals exact ⟨[], (List.append_nil _).symm, nofun⟩

/-- Settles O57, along the effects of an operation. -/
theorem otherTimeoutsAreFatal : Obligations.OtherTimeoutsAreFatal := fun _ _ _ hi h hok =>
  effect_reads_full (exec_effect h) hi hok

/-! ### The fault mark -/

/-- R202: what reading the payload leaves of the fault mark. -/
theorem State.faultMark_of_payload {s : State} {u : Bool} (hu : u = true ↔ s.HasUnwritten) :
    (s.mark u).faultMark = s.faultMark ∨ (s.mark u).faultMark = true ∧ s.HasUnwritten := by
  cases u with
  | false => exact .inl (Bool.or_false _)
  | true => exact .inr ⟨Bool.or_true _, hu.1 rfl⟩

/-- R202: an operation keeps the fault mark, or it is CKXOR, SENDBLK or SENDFRAME over an unwritten cell and raises it. -/
theorem effect_faultMark {s t : State} {i : Instr} (h : Effect s i t) :
    t.faultMark = s.faultMark ∨ t.faultMark = true ∧ s.HasUnwritten ∧ i ∈ [.ckxor, .sendblk, .sendframe] := by
  cases h
  case ckxor hu | sendblk hu _ _ _ | sendframe hu _ =>
    exact (State.faultMark_of_payload hu).imp_right fun ⟨hup, hcell⟩ => ⟨hup, hcell, by simp⟩
  all_goals exact .inl rfl

@[simp] theorem State.storeTarget_faultMark (s : State) (t : Target) (v : Word) :
    (s.storeTarget t v).faultMark = s.faultMark := by
  cases t <;> rfl

@[simp] theorem State.expectResult_faultMark (s : State) (q : Res) : (s.expectResult q).faultMark = s.faultMark := by
  unfold State.expectResult; split <;> rfl

/-- R202, R248: what raises the fault mark, an 8-bit read of an unwritten cell or an operation over a payload with one. -/
def State.MeetsUnwritten (s : State) : Prop :=
  (∃ off rest, s.inputs = .read off 8 :: rest ∧ Memory.read s.mem off = none) ∨
    s.HasUnwritten ∧ ∃ r i, s.phase = .busy r ∧ decode r = .ok i ∧ i ∈ [.ckxor, .sendblk, .sendframe]

/-- R202, R248: a step keeps the fault mark, or meets an unwritten cell and raises it. -/
theorem turn_faultMark {s t : State} (h : Turn s t) :
    t.faultMark = s.faultMark ∨ t.faultMark = true ∧ s.MeetsUnwritten := by
  cases h with
  | ran r i hb hd _ he =>
    exact (effect_faultMark (exec_effect he)).imp_right fun ⟨hm, hu, hi⟩ => ⟨hm, .inr ⟨hu, r, i, hb, hd, hi⟩⟩
  | looked off bits v tg rest hi ht =>
    cases hu : tg.unwritten s.mem with
    | false => exact .inl (Bool.or_false _)
    | true =>
      obtain ⟨rfl, _, hn⟩ := target_unwritten ht hu
      exact .inr ⟨Bool.or_true _, .inl ⟨off, rest, hi, hn⟩⟩
  | stored => exact .inl (State.storeTarget_faultMark ..)
  | expected => exact .inl (State.expectResult_faultMark ..)
  | illegal | dropped | waited | resetInput | idle => exact .inl rfl

/-- Settles O49, from the two ways a step leaves the fault mark. -/
theorem faultMarkIsNeverCleared : Obligations.FaultMarkIsNeverCleared := by
  intro s t h
  rcases turn_faultMark (step_turn h) with hkept | ⟨hup, hcause⟩
  · exact ⟨fun h1 => hkept.trans h1, fun h0 h1 => by simp [hkept, h0] at h1⟩
  · exact ⟨fun _ => hup, fun _ _ => hcause⟩

end Sys2Proof.Machine
end

section
/-! Waiting (R232): what a step does in IDLE when the outside world neither accesses nor resets the FRAMER. -/

namespace Sys2Proof.Machine

/-- R232: with nothing to come while IDLE, nobody moves and the step keeps the whole state. -/
theorem step_nothing_idle {s : State} (hp : s.phase = .idle) (hi : s.inputs = []) : step s = .next s := by
  have hm : s.mover = .nobody := by simp only [State.mover, hp, hi]
  simp only [step, State.move, hm]

/-- R232: a `wait` while IDLE finds no running operation and is only taken off the inputs. -/
theorem step_wait_idle {s : State} {rest : List Input} (hp : s.phase = .idle) (hi : s.inputs = .wait :: rest) :
    step s = .next { s with inputs := rest } := by
  have hm : s.mover = .outside .wait rest := by simp only [State.mover, hp, hi]
  simp only [step, State.move, hm, State.input]

/-- Settles O7: nobody moves, or the outside world's `wait` does. -/
theorem idleMachineWaits : Obligations.IdleMachineWaits := fun _ hp =>
  ⟨step_nothing_idle hp, fun _ hi => step_wait_idle hp hi⟩

end Sys2Proof.Machine
end
